-- ==== Sys2Proof/Word.lean ====
section
/-! DEFINITION. The two value widths of the encoder core (spec/00_scope.md R6, spec/10_state.md R11 to R13). -/

namespace Sys2Proof

/-- A byte: 8 bits, unsigned, bit 0 least significant (R6). -/
abbrev Byte := BitVec 8

/-- A 16-bit value: the CRC-16 accumulator and an entry of `T16` (R13, R20). -/
abbrev Word16 := BitVec 16

end Sys2Proof
end

