-- ==== Sys2Proof/Syntax.lean ====
section
/-! DEFINITION. The operations, the operand forms of a request, and what a caller can do to the block
(spec/30_encoding.md R59, R63; spec/70_reset_and_hazards.md R189). -/

namespace Sys2Proof

/-- The eight operations, one constructor per row of spec/opcode_table.json (R2, R59). An operation
carries no operand field: its operands stand in the operand registers when it is issued. -/
inductive Instr where
  /-- `CRC8` (R100). -/
  | crc8
  /-- `CRC16` (R110). -/
  | crc16
  /-- `BUILD_FRAME` (R120). -/
  | buildFrame
  /-- `IS_DELTA_MODEL` (R140). -/
  | isDeltaModel
  /-- `AC_SWITCH` (R141). -/
  | acSwitch
  /-- `GET_PD` (R142). -/
  | getPd
  /-- `GET_DC_IN_TYPE` (R143). -/
  | getDcInType
  /-- `GET_DC_IN_CURRENT` (R144). -/
  | getDcInCurrent
deriving DecidableEq, Repr

/-- A command descriptor: "(destination, command_set, command_id, payload)" (R9, R139). -/
structure Descriptor where
  /-- Destination. -/
  dst : Byte
  /-- Command set. -/
  cmdSet : Byte
  /-- Command id. -/
  cmdId : Byte
  /-- Payload bytes, index 0 first. -/
  payload : List Byte
deriving DecidableEq, Repr

/-- The operand forms of the operation requests (R59, column Operands). -/
inductive Operands where
  /-- No operand (`GET_PD`). -/
  | none
  /-- `IN[0:ILEN] = data`, any length (`CRC8`, `CRC16`). -/
  | data (bytes : List Byte)
  /-- `DST`, `CMD_SET`, `CMD_ID` and the payload; an omitted payload is the empty sequence (R63, R120). -/
  | descriptor (dst cmdSet cmdId : Byte) (payload : Option (List Byte))
  /-- `ARG_STATE`, `true` = on (`AC_SWITCH`; R17). -/
  | toggle (on : Bool)
  /-- `ARG_PCODE`, a mathematical integer (the three product-code operations; R17). -/
  | product (code : Int)
deriving DecidableEq, Repr

/-- An operation request: an operation and the operands presented with it (R59). -/
structure Request where
  /-- The operation named. -/
  instr : Instr
  /-- The operands presented. -/
  operands : Operands
deriving DecidableEq, Repr

/-- What a caller (or the platform, for `reset`) can do to one instance (R39, R91, R180, R187, R189;
notes/assumptions/5.md). The moves still to come stand in the state as a list. DESIGN CHOICE: no move reads
`STATUS` (R15); the caller learns `DONE` by `wait` and `ERR` from the result (notes/assumptions/24.md). -/
inductive CallerMove where
  /-- Write operand registers (R11, R17, R21). -/
  | present (operands : Operands)
  /-- Issue the operation numbered `op` and wait for its end: the unit of execution (R9, R91, R92). -/
  | call (op : Byte)
  /-- Issue the operation numbered `op` and go on without waiting (R91). -/
  | issue (op : Byte)
  /-- Wait for the end of the operation under way: the block does its micro-steps meanwhile (R39). DESIGN
  CHOICE: with no operation under way the wait is over at once, whatever `STATUS.DONE` is
  (notes/assumptions/23.md). -/
  | wait
  /-- Read the result byte `OUT[a]` (R187). -/
  | readOut (a : Nat)
  /-- Read the result bit `PRED` (R18, R187). -/
  | readPred
  /-- Apply reset (R180). -/
  | reset
deriving DecidableEq, Repr

end Sys2Proof
end

