-- ==== Sys2Proof/WellFormed.lean ====
section
/-! DEFINITION. Which operands an operation takes (spec/30_encoding.md R59, R60). An `Instr` has no
operand field, so there is no ill-formed `Instr`; what can be ill-formed is a request, which pairs an
operation with operands. A `dst`, `cmd_set` or `cmd_id` outside 0..255 is unrepresentable (R11, U9); a
payload longer than 65535 is a well-formed request that raises the block's error (R60, R160). -/

namespace Sys2Proof

/-- Whether the operation takes this form of operands (the table of R59). -/
def Instr.takes (i : Instr) (o : Operands) : Bool :=
  match i with
  | .crc8 => (o matches .data _)
  | .crc16 => (o matches .data _)
  | .buildFrame => (o matches .descriptor _ _ _ _)
  | .isDeltaModel => (o matches .product _)
  | .acSwitch => (o matches .toggle _)
  | .getPd => (o matches .none)
  | .getDcInType => (o matches .product _)
  | .getDcInCurrent => (o matches .product _)

/-- A request is well formed when it presents the operands its operation takes (R59). -/
def Request.wellFormed (r : Request) : Bool := r.instr.takes r.operands

end Sys2Proof
end

