-- ==== Sys2Proof/Decode.lean ====
section
/-! DEFINITION. The operation select `OP`: decoding and encoding (spec/30_encoding.md R59, R60). The
numbers are the spec's own (decision D11). A request is not a byte stream (R62); the one encoded thing
is the 8-bit `OP`, and the decoder takes it as the first byte of a list and gives the rest back. -/

namespace Sys2Proof

/-- One row of the table of R59. -/
structure OpRow where
  /-- The operation select. -/
  op : Byte
  /-- The operation it names. -/
  instr : Instr
  /-- Its mnemonic. -/
  mnemonic : String
  /-- The document's spelling of its call, where it gives one (R59, R63). -/
  spelling : Option String
deriving DecidableEq, Repr

/-- The table of R59, row by row. -/
def opTable : List OpRow :=
  [⟨0x01#8, .crc8, "CRC8", some "crc8"⟩,
   ⟨0x02#8, .crc16, "CRC16", some "crc16"⟩,
   ⟨0x03#8, .buildFrame, "BUILD_FRAME", some "build_frame"⟩,
   ⟨0x10#8, .isDeltaModel, "IS_DELTA_MODEL", some "is_delta_model"⟩,
   ⟨0x11#8, .acSwitch, "AC_SWITCH", some "ac_switch"⟩,
   ⟨0x12#8, .getPd, "GET_PD", some "get_pd"⟩,
   ⟨0x13#8, .getDcInType, "GET_DC_IN_TYPE", some "get_dc_in_type"⟩,
   ⟨0x14#8, .getDcInCurrent, "GET_DC_IN_CURRENT", none⟩]

/-- Why a byte list names no operation. -/
inductive DecodeError where
  /-- There is no byte to read. -/
  | noByte
  /-- The `OP` value is not in the table of R59 (R60). -/
  | noSuchOperation (op : Byte)
deriving DecidableEq, Repr

/-- The operation an `OP` value names, if any (R59, R60). -/
def decodeOp (op : Byte) : Option Instr :=
  (opTable.find? (fun row => row.op == op)).map (fun row => row.instr)

/-- The operation a name names: its mnemonic, or the document's spelling of it, which names the same
operation (R63). A constructor that is not listed is refused by name (R145, U14). -/
def instrOfName (name : String) : Option Instr :=
  (opTable.find? (fun row => row.mnemonic == name || row.spelling == some name)).map
    (fun row => row.instr)

/-- Decoding: total on every byte list, rejecting by name, with the bytes after the request's `OP`. -/
def decode : List Byte → Except DecodeError (Instr × List Byte)
  | [] => .error .noByte
  | op :: rest =>
    match decodeOp op with
    | some i => .ok (i, rest)
    | none => .error (.noSuchOperation op)

/-- The `OP` value of an operation (R59). -/
def encodeOp : Instr → Byte
  | .crc8 => 0x01#8
  | .crc16 => 0x02#8
  | .buildFrame => 0x03#8
  | .isDeltaModel => 0x10#8
  | .acSwitch => 0x11#8
  | .getPd => 0x12#8
  | .getDcInType => 0x13#8
  | .getDcInCurrent => 0x14#8

/-- The encoding of an operation: its one `OP` byte (R59). -/
def encode (i : Instr) : List Byte := [encodeOp i]

/-- The caller's moves for one request waited for to its end: present the operands, then issue
(R39, R91). -/
def Request.moves (r : Request) : List CallerMove :=
  [.present r.operands, .call (encodeOp r.instr)]

/-- The bytes of a table word: `nbits` bits of `w`, at least one byte, bits 7..0 first. -/
def tableWordBytes (nbits w : Nat) : List Byte :=
  (List.range (max 1 (nbits / 8))).map (fun k => BitVec.ofNat 8 ((w % 2 ^ nbits) / 256 ^ k))

/-- The `OP` byte of a table word. -/
def tableWordOp (nbits w : Nat) : Byte := BitVec.ofNat 8 (w % 2 ^ nbits)

/-- What the decoder reads from a word of spec/opcode_table.json. -/
def decodeTableWord (nbits w : Nat) : Option Instr :=
  match decode (tableWordBytes nbits w) with
  | .ok (i, _) => some i
  | .error _ => none

end Sys2Proof
end

