-- ==== Sys2Proof/Config.lean ====
section
/-! DEFINITION. The parameters of the block (spec/00_scope.md R5). Every parameter the sources leave
without a value is an `opaque` constant: nothing in Lean can say what it is, so a claim holds for every
value of it. What the spec fixes (65535, the frame's constant bytes, `T16_ARC`) is in
Machine/Constants.lean. -/

namespace Sys2Proof

/-- The parameters of the step relation (R5, R24): the two constant tables and the five constants of
`GET_DC_IN_CURRENT`. The operations of the model take them as an argument, so that they can also be run
with the synthetic tables of spec/95_test_vectors.md section 2; `exec` uses `Config.params`. -/
structure Params where
  /-- `TABLE8`, the contents of `T8` (R19). -/
  table8 : Byte → Byte
  /-- `TABLE16`, the contents of `T16` (R20). -/
  table16 : Byte → Word16
  /-- `DCCUR_DST_DELTA` (R144). -/
  dccurDstDelta : Byte
  /-- `DCCUR_DST_OTHER` (R144). -/
  dccurDstOther : Byte
  /-- `DCCUR_CMD_SET` (R144). -/
  dccurCmdSet : Byte
  /-- `DCCUR_CMD_ID` (R144). -/
  dccurCmdId : Byte
  /-- `DCCUR_PAYLOAD` (R144). -/
  dccurPayload : List Byte

namespace Config

/-- `TABLE8`: `OPEN`, no default, no assumed property (R5, R105; notes/assumptions/2.md). -/
opaque table8 : Byte → Byte

/-- `TABLE16`: a parameter; its decided default `T16_ARC` is named where a claim needs it and is never
built in (R5, R114; notes/assumptions/3.md). -/
opaque table16 : Byte → Word16

/-- `DCCUR_DST_DELTA`: `OPEN` (R5, R144; notes/assumptions/4.md). -/
opaque dccurDstDelta : Byte

/-- `DCCUR_DST_OTHER`: `OPEN` (R5, R144; notes/assumptions/4.md). -/
opaque dccurDstOther : Byte

/-- `DCCUR_CMD_SET`: `OPEN` (R5, R144; notes/assumptions/4.md). -/
opaque dccurCmdSet : Byte

/-- `DCCUR_CMD_ID`: `OPEN` (R5, R144; notes/assumptions/4.md). -/
opaque dccurCmdId : Byte

/-- `DCCUR_PAYLOAD`: `OPEN`, of any length (R5, R144; notes/assumptions/4.md). -/
opaque dccurPayload : List Byte

/-- The parameters of the machine that `exec` and `step` run. -/
def params : Params where
  table8 := table8
  table16 := table16
  dccurDstDelta := dccurDstDelta
  dccurDstOther := dccurDstOther
  dccurCmdSet := dccurCmdSet
  dccurCmdId := dccurCmdId
  dccurPayload := dccurPayload

end Config

end Sys2Proof
end

