-- ==== Sys2Proof/Machine/Constants.lean ====
section
/-! DEFINITION. The constants the spec fixes: the length bound, the frame's constant bytes, the
descriptors of the catalog, and the default table `T16_ARC`. -/

namespace Sys2Proof.Machine

/-- `MAX_PAYLOAD` (R5). -/
def maxPayload : Nat := 65535

/-- `HEADER_LEN`: the payload starts at offset 16 (R5). -/
def headerLen : Nat := 16

/-- `TRAILER_LEN`: the CRC-16 field is 2 bytes (R5). -/
def trailerLen : Nat := 2

/-- Frame byte 0, `magic` (R50). -/
def magicByte : Byte := 0xAA#8

/-- Frame byte 1, `version` (R50). -/
def versionByte : Byte := 0x02#8

/-- Frame bytes 5 to 12, the fixed mid-header (R50, R124). -/
def midHeader : List Byte := [0x0D#8, 0x00#8, 0x00#8, 0x00#8, 0x00#8, 0x00#8, 0x00#8, 0x20#8]

/-- The 7-byte toggle payload: the state, then six bytes of padding (R57). -/
def togglePayload (on : Bool) : List Byte :=
  [if on then 0x01#8 else 0x00#8, 0xFF#8, 0xFF#8, 0xFF#8, 0xFF#8, 0xFF#8, 0xFF#8]

/-- The descriptor of `AC_SWITCH` (R141). -/
def acSwitchDescriptor (on : Bool) : Descriptor := ⟨4#8, 32#8, 66#8, togglePayload on⟩

/-- The descriptor of `GET_PD` (R142). -/
def getPdDescriptor : Descriptor := ⟨2#8, 32#8, 2#8, [0x00#8]⟩

/-- The descriptor of `GET_DC_IN_TYPE` for a Delta model (R143). -/
def dcInTypeDelta : Descriptor := ⟨5#8, 32#8, 82#8, [0x00#8]⟩

/-- The descriptor of `GET_DC_IN_TYPE` for any other model (R143). -/
def dcInTypeOther : Descriptor := ⟨4#8, 32#8, 68#8, [0x00#8]⟩

/-- The descriptor of `GET_DC_IN_CURRENT` for a Delta model (R144). -/
def dcInCurrentDelta (p : Params) : Descriptor :=
  ⟨p.dccurDstDelta, p.dccurCmdSet, p.dccurCmdId, p.dccurPayload⟩

/-- The descriptor of `GET_DC_IN_CURRENT` for any other model (R144). -/
def dcInCurrentOther (p : Params) : Descriptor :=
  ⟨p.dccurDstOther, p.dccurCmdSet, p.dccurCmdId, p.dccurPayload⟩

/-- The Delta-model predicate on a product code, both bounds exclusive (R85, R140). -/
def isDelta (code : Int) : Bool := decide (12 < code ∧ code < 16)

/-- Rows 0x00 to 0x38 of the table of R114. -/
def t16ArcRows0 : List (List Word16) :=
  [[0x0000#16, 0xC0C1#16, 0xC181#16, 0x0140#16, 0xC301#16, 0x03C0#16, 0x0280#16, 0xC241#16],
   [0xC601#16, 0x06C0#16, 0x0780#16, 0xC741#16, 0x0500#16, 0xC5C1#16, 0xC481#16, 0x0440#16],
   [0xCC01#16, 0x0CC0#16, 0x0D80#16, 0xCD41#16, 0x0F00#16, 0xCFC1#16, 0xCE81#16, 0x0E40#16],
   [0x0A00#16, 0xCAC1#16, 0xCB81#16, 0x0B40#16, 0xC901#16, 0x09C0#16, 0x0880#16, 0xC841#16],
   [0xD801#16, 0x18C0#16, 0x1980#16, 0xD941#16, 0x1B00#16, 0xDBC1#16, 0xDA81#16, 0x1A40#16],
   [0x1E00#16, 0xDEC1#16, 0xDF81#16, 0x1F40#16, 0xDD01#16, 0x1DC0#16, 0x1C80#16, 0xDC41#16],
   [0x1400#16, 0xD4C1#16, 0xD581#16, 0x1540#16, 0xD701#16, 0x17C0#16, 0x1680#16, 0xD641#16],
   [0xD201#16, 0x12C0#16, 0x1380#16, 0xD341#16, 0x1100#16, 0xD1C1#16, 0xD081#16, 0x1040#16]]

/-- Rows 0x40 to 0x78 of the table of R114. -/
def t16ArcRows1 : List (List Word16) :=
  [[0xF001#16, 0x30C0#16, 0x3180#16, 0xF141#16, 0x3300#16, 0xF3C1#16, 0xF281#16, 0x3240#16],
   [0x3600#16, 0xF6C1#16, 0xF781#16, 0x3740#16, 0xF501#16, 0x35C0#16, 0x3480#16, 0xF441#16],
   [0x3C00#16, 0xFCC1#16, 0xFD81#16, 0x3D40#16, 0xFF01#16, 0x3FC0#16, 0x3E80#16, 0xFE41#16],
   [0xFA01#16, 0x3AC0#16, 0x3B80#16, 0xFB41#16, 0x3900#16, 0xF9C1#16, 0xF881#16, 0x3840#16],
   [0x2800#16, 0xE8C1#16, 0xE981#16, 0x2940#16, 0xEB01#16, 0x2BC0#16, 0x2A80#16, 0xEA41#16],
   [0xEE01#16, 0x2EC0#16, 0x2F80#16, 0xEF41#16, 0x2D00#16, 0xEDC1#16, 0xEC81#16, 0x2C40#16],
   [0xE401#16, 0x24C0#16, 0x2580#16, 0xE541#16, 0x2700#16, 0xE7C1#16, 0xE681#16, 0x2640#16],
   [0x2200#16, 0xE2C1#16, 0xE381#16, 0x2340#16, 0xE101#16, 0x21C0#16, 0x2080#16, 0xE041#16]]

/-- Rows 0x80 to 0xB8 of the table of R114. -/
def t16ArcRows2 : List (List Word16) :=
  [[0xA001#16, 0x60C0#16, 0x6180#16, 0xA141#16, 0x6300#16, 0xA3C1#16, 0xA281#16, 0x6240#16],
   [0x6600#16, 0xA6C1#16, 0xA781#16, 0x6740#16, 0xA501#16, 0x65C0#16, 0x6480#16, 0xA441#16],
   [0x6C00#16, 0xACC1#16, 0xAD81#16, 0x6D40#16, 0xAF01#16, 0x6FC0#16, 0x6E80#16, 0xAE41#16],
   [0xAA01#16, 0x6AC0#16, 0x6B80#16, 0xAB41#16, 0x6900#16, 0xA9C1#16, 0xA881#16, 0x6840#16],
   [0x7800#16, 0xB8C1#16, 0xB981#16, 0x7940#16, 0xBB01#16, 0x7BC0#16, 0x7A80#16, 0xBA41#16],
   [0xBE01#16, 0x7EC0#16, 0x7F80#16, 0xBF41#16, 0x7D00#16, 0xBDC1#16, 0xBC81#16, 0x7C40#16],
   [0xB401#16, 0x74C0#16, 0x7580#16, 0xB541#16, 0x7700#16, 0xB7C1#16, 0xB681#16, 0x7640#16],
   [0x7200#16, 0xB2C1#16, 0xB381#16, 0x7340#16, 0xB101#16, 0x71C0#16, 0x7080#16, 0xB041#16]]

/-- Rows 0xC0 to 0xF8 of the table of R114. -/
def t16ArcRows3 : List (List Word16) :=
  [[0x5000#16, 0x90C1#16, 0x9181#16, 0x5140#16, 0x9301#16, 0x53C0#16, 0x5280#16, 0x9241#16],
   [0x9601#16, 0x56C0#16, 0x5780#16, 0x9741#16, 0x5500#16, 0x95C1#16, 0x9481#16, 0x5440#16],
   [0x9C01#16, 0x5CC0#16, 0x5D80#16, 0x9D41#16, 0x5F00#16, 0x9FC1#16, 0x9E81#16, 0x5E40#16],
   [0x5A00#16, 0x9AC1#16, 0x9B81#16, 0x5B40#16, 0x9901#16, 0x59C0#16, 0x5880#16, 0x9841#16],
   [0x8801#16, 0x48C0#16, 0x4980#16, 0x8941#16, 0x4B00#16, 0x8BC1#16, 0x8A81#16, 0x4A40#16],
   [0x4E00#16, 0x8EC1#16, 0x8F81#16, 0x4F40#16, 0x8D01#16, 0x4DC0#16, 0x4C80#16, 0x8C41#16],
   [0x4400#16, 0x84C1#16, 0x8581#16, 0x4540#16, 0x8701#16, 0x47C0#16, 0x4680#16, 0x8641#16],
   [0x8201#16, 0x42C0#16, 0x4380#16, 0x8341#16, 0x4100#16, 0x81C1#16, 0x8081#16, 0x4040#16]]

/-- The 32 rows of 8 entries of the table of R114. -/
def t16ArcRows : List (List Word16) := t16ArcRows0 ++ t16ArcRows1 ++ t16ArcRows2 ++ t16ArcRows3

/-- `T16_ARC`, the decided default of `TABLE16`, as R114 lists it: entry index = row label plus column.
Every index 0..255 has an entry. -/
def t16Arc (i : Byte) : Word16 := (t16ArcRows.getD (i.toNat / 8) []).getD (i.toNat % 8) 0#16

/-- One reflected shift-and-xor step with the constant `0xA001` (the formula of R114). -/
def arcShift (c : Word16) : Word16 := if c.getLsbD 0 then (c >>> 1) ^^^ 0xA001#16 else c >>> 1

/-- The formula of R114 for entry `i`: eight steps from `i` as a 16-bit value. -/
def arcFormula (i : Byte) : Word16 := arcShift^[8] (i.setWidth 16)

end Sys2Proof.Machine
end

