-- ==== Sys2Proof/Machine/State.lean ====
section
/-! DEFINITION. The state of one instance of the encoder core (spec/10_state.md), as plain data, and its
value after reset (R25, R180). The contents of `T8` and `T16` are parameters and not state (R24). -/

namespace Sys2Proof.Machine

/-- A byte buffer: (index, byte) pairs, indices strictly rising. An index that is not listed holds no
value (R22; notes/assumptions/8.md). -/
abbrev Memory := List Host.Cell

/-- The status register `STATUS` (R15): two 1-bit fields. -/
structure Status where
  /-- `DONE`, bit 0: the last operation has ended. -/
  done : Bool
  /-- `ERR`, bit 1: it ended with the block's error. -/
  err : Bool
deriving DecidableEq, Repr

/-- The block's one error, with the argument of `raise PayloadTooLarge(N)` (R160). -/
inductive BlockError where
  /-- The payload of a `BUILD_FRAME` is longer than 65535 bytes; `length` is the offending `N`. -/
  | payloadTooLarge (length : Nat)
deriving DecidableEq, Repr

/-- What an ended operation delivers to the caller (R15, R92). -/
inductive Result where
  /-- `OUT[0:WP]`. -/
  | bytes (bs : List Byte)
  /-- `PRED`, after `IS_DELTA_MODEL`. -/
  | predicate (b : Bool)
  /-- The block's error; no byte sequence is attached (R164). -/
  | error (e : BlockError)
deriving DecidableEq, Repr

/-- The micro-steps an operation is made of (R86, R87, R101 to R103, R111 to R113, R121 to R129, R139,
R140): one table update, one append, or one register write each (decision D1). -/
inductive Micro where
  /-- `ACC8 <- 0x00` (R101). -/
  | cg8Clear
  /-- CG8 update with `IN[RP]`, then `RP <- RP + 1` (R86 form a, R102). -/
  | cg8Input
  /-- CG8 update with `OUT[i]` (R86 form b, R102). -/
  | cg8Output (i : Nat)
  /-- `emit(ACC8)` (R103). -/
  | emitAcc8
  /-- `ACC16 <- 0x0000` (R111). -/
  | cg16Clear
  /-- CG16 update with `IN[RP]`, then `RP <- RP + 1` (R86 form a, R112). -/
  | cg16Input
  /-- CG16 update with `OUT[i]` (R86 form b, R112). -/
  | cg16Output (i : Nat)
  /-- `emit(ACC16[7:0])` (R113). -/
  | emitAcc16Low
  /-- `emit(ACC16[15:8])` (R113). -/
  | emitAcc16High
  /-- `PRED <- 12 < ARG_PCODE < 16` (R140). -/
  | predicate
  /-- Write a descriptor to `DST`, `CMD_SET`, `CMD_ID`, `IN`, `ILEN` (R139 step 2). -/
  | writeDescriptor (d : Descriptor)
  /-- The two-way choice of descriptor on `PRED` (R89, R143, R144), then as `writeDescriptor`. -/
  | chooseDescriptor (delta other : Descriptor)
  /-- Step 0 of `BUILD_FRAME`: raise, or go on with steps 1 to 8 (R129). -/
  | checkLength
  /-- `emit` of a constant byte (R121, R124). -/
  | emitByte (b : Byte)
  /-- `emit(ILEN mod 256)` (R122). -/
  | emitLengthLow
  /-- `emit(floor(ILEN / 256))` (R122). -/
  | emitLengthHigh
  /-- `emit(DST)` (R125). -/
  | emitDst
  /-- `emit(CMD_SET)` (R125). -/
  | emitCmdSet
  /-- `emit(CMD_ID)` (R125). -/
  | emitCmdId
  /-- `emit(IN[RP])`, then `RP <- RP + 1` (R126). -/
  | copyInput
  /-- `STEP <- k` (R14). -/
  | setStep (k : Fin 9)
  /-- `STATUS.DONE <- 1` (R128). -/
  | finish
deriving DecidableEq, Repr

/-- Why the machine stops with a fault. None of these is the block's own error, which is a next state
(R167). -/
inductive Fault where
  /-- Raised by a call of `CRC8`, `CRC16` or `BUILD_FRAME` when a byte `IN[a]`, `a < ILEN`, that it would
  read holds no value, and by a micro-step that would read such a byte, or `IN[a]` with `a >= ILEN` (R22,
  R167 c, U6). Safe: the model stops where nothing is specified. No caller move leads to such a state. -/
  | inputUnlisted (a : Nat)
  /-- Raised by the caller's read of `OUT[a]` with `a >= WP`, and by a micro-step that would make such a
  read (R22, R167 c). Safe. -/
  | outReadOutOfRange (a : Nat)
  /-- Raised by the caller's read of a result when there is none: `STATUS` is not DONE without ERR, or
  the result is not in `PRED` (R18, R187, U13). Safe. -/
  | noResult
deriving DecidableEq, Repr

/-- Why the machine refuses. Every refusal is safe: the model gives no meaning where the spec asks for
none (R167). -/
inductive Refusal where
  /-- Raised by `exec` for an operation whose meaning is not written yet (none is left). Safe. -/
  | notModelled (mnemonic : String)
  /-- Raised by the issue of an `OP` value that names no operation (R60, R167 a). Safe. -/
  | noSuchOperation (op : Byte)
  /-- Raised by an issue while an operation is under way (R186, R167 d). Safe. -/
  | busy
  /-- Raised by a change of operands while an operation is under way, a move the spec gives the caller
  no right to (R185, U7). Safe. -/
  | operandsHeld
deriving DecidableEq, Repr

/-- The state of one instance (R10 to R18, R21). The last three fields are the model's own. -/
structure State where
  /-- `DST`, 8 bits (R11). -/
  dst : Byte
  /-- `CMD_SET`, 8 bits (R11). -/
  cmdSet : Byte
  /-- `CMD_ID`, 8 bits (R11). -/
  cmdId : Byte
  /-- `ACC8`, 8 bits (R12). -/
  acc8 : Byte
  /-- `ACC16`, 16 bits (R13). -/
  acc16 : Word16
  /-- `ARG_STATE`, 1 bit (R17). -/
  argState : Bool
  /-- `ARG_PCODE`, a mathematical integer (R17). -/
  argPcode : Int
  /-- `PRED`, 1 bit (R18). -/
  pred : Bool
  /-- `IN`, the input buffer (R21). -/
  inBuf : Memory
  /-- `ILEN`, a natural number (R21). -/
  ilen : Nat
  /-- `OUT`, the output buffer (R21). -/
  outBuf : Memory
  /-- `WP`, a natural number (R14). -/
  wp : Nat
  /-- `RP`, a natural number (R14). -/
  rp : Nat
  /-- `STEP`, 0..8 (R14). -/
  stepReg : Fin 9
  /-- `STATUS`, 2 bits (R15). -/
  status : Status
  /-- Model's own: the error surfaced to the caller with its argument, while `STATUS.ERR = 1` (R160,
  R164; notes/assumptions/12.md). -/
  raised : Option BlockError
  /-- Model's own: the micro-steps the operation under way has still to do; empty = idle (R175, R186;
  notes/assumptions/6.md). -/
  todo : List Micro
  /-- Model's own: the caller's moves still to come (notes/assumptions/5.md). -/
  script : List CallerMove
deriving DecidableEq, Repr

/-- The block after reset: `STATUS = 0`, idle (R25, R180). The spec gives every other location no value;
the zeros are this model's choice (notes/assumptions/1.md). -/
def State.reset : State where
  dst := 0#8
  cmdSet := 0#8
  cmdId := 0#8
  acc8 := 0#8
  acc16 := 0#16
  argState := false
  argPcode := 0
  pred := false
  inBuf := []
  ilen := 0
  outBuf := []
  wp := 0
  rp := 0
  stepReg := 0
  status := ⟨false, false⟩
  raised := none
  todo := []
  script := []

end Sys2Proof.Machine
end

