-- ==== Sys2Proof/Machine/Ops.lean ====
section
/-! DEFINITION. The named operations over memory and registers (spec/40_common_operations.md), and the
raising of the block's one error (spec/60_exceptions.md R164). -/

namespace Sys2Proof.Machine

/-- Bits 7..0 of a 16-bit value (R6). -/
def lowByte (v : Word16) : Byte := v.extractLsb' 0 8

/-- Bits 15..8 of a 16-bit value (R6). -/
def highByte (v : Word16) : Byte := v.extractLsb' 8 8

/-- `le16` of a 16-bit value: low byte first (R7, R30). -/
def le16 (v : Word16) : List Byte := [lowByte v, highByte v]

/-- `zext_16` of a byte (R7, R81). -/
def zext16 (b : Byte) : Word16 := b.setWidth 16

/-- The low byte of the length field, `N mod 256` (R53, R122). -/
def lengthLow (n : Nat) : Byte := BitVec.ofNat 8 (n % 256)

/-- The high byte of the length field, `floor(N / 256)` (R53, R122). -/
def lengthHigh (n : Nat) : Byte := BitVec.ofNat 8 (n / 256)

/-- One CG8 update of an accumulator with a byte: the table entry itself (R102). -/
def cg8Next (table8 : Byte → Byte) (acc b : Byte) : Byte := table8 ((acc ^^^ b) &&& 0xFF#8)

/-- The CG16 table index: the accumulator xor the zero-extended byte, masked to 8 bits (R81, R82). -/
def cg16Index (acc : Word16) (b : Byte) : Byte := ((acc ^^^ zext16 b) &&& 0x00FF#16).setWidth 8

/-- One CG16 update of an accumulator with a byte; both uses of the accumulator are the old value
(R83, R112). -/
def cg16Next (table16 : Byte → Word16) (acc : Word16) (b : Byte) : Word16 :=
  table16 (cg16Index acc b) ^^^ (acc >>> 8)

/-! ### Buffers -/

/-- The byte listed at index `a`, if any (R22). -/
def Memory.read : Memory → Nat → Option Byte
  | [], _ => none
  | (k, v) :: m, a => if k = a then some v else Memory.read m a

/-- Write one byte at index `a`, keeping the indices rising (R33). -/
def Memory.write : Memory → Nat → Byte → Memory
  | [], a, v => [(a, v)]
  | (k, w) :: m, a, v =>
    if a < k then (a, v) :: (k, w) :: m
    else if a = k then (a, v) :: m
    else (k, w) :: Memory.write m a v

/-- Write a byte sequence from index `a` upwards, index 0 of the sequence first. -/
def Memory.writeAll : Memory → Nat → List Byte → Memory
  | m, _, [] => m
  | m, a, b :: bs => Memory.writeAll (m.write a b) (a + 1) bs

/-- The canonical form of a buffer: indices strictly rising. -/
abbrev Memory.wf (m : Memory) : Prop := List.Pairwise (fun x y => x.1 < y.1) m

/-! ### Register writes and the append -/

/-- `emit(v)`: write `OUT[WP]`, then `WP <- WP + 1` (R7, R87). -/
def State.emit (s : State) (v : Byte) : State :=
  { s with outBuf := s.outBuf.write s.wp v, wp := s.wp + 1 }

/-- `emit_seq(s)`: `emit` of each byte, index 0 first (R7). -/
def State.emitSeq (s : State) : List Byte → State
  | [] => s
  | b :: bs => (s.emit b).emitSeq bs

/-- `ACC8 <- v` (R12). -/
def State.setAcc8 (s : State) (v : Byte) : State := { s with acc8 := v }

/-- `ACC16 <- v` (R13). -/
def State.setAcc16 (s : State) (v : Word16) : State := { s with acc16 := v }

/-- `PRED <- b` (R18). -/
def State.setPred (s : State) (b : Bool) : State := { s with pred := b }

/-- `STEP <- k` (R14). -/
def State.setStep (s : State) (k : Fin 9) : State := { s with stepReg := k }

/-- `RP <- RP + 1` (R86). -/
def State.advanceRp (s : State) : State := { s with rp := s.rp + 1 }

/-- Replace what the operation under way has still to do. -/
def State.setTodo (s : State) (l : List Micro) : State := { s with todo := l }

/-- Replace the caller's moves still to come. -/
def State.setScript (s : State) (l : List CallerMove) : State := { s with script := l }

/-- `raise PayloadTooLarge(N)`: the block's only exception (R160, R164). It sets both status bits and
ends the operation; it saves no state, changes no mode and goes to no handler. The argument is surfaced
to the caller with the error. There is no return operation (R165): the next issue clears the status. -/
def State.raisePayloadTooLarge (s : State) (n : Nat) : State :=
  { s with status := ⟨true, true⟩, raised := some (.payloadTooLarge n), todo := [] }

/-- The cause code of the error (R160). -/
def BlockError.code : BlockError → Nat
  | .payloadTooLarge _ => 1

end Sys2Proof.Machine
end

