-- ==== Sys2Proof/Machine/Flags.lean ====
section
/-! DEFINITION. The status register `STATUS` (spec/10_state.md R15): the only flags the block has. No
operation reads it, and there are no condition codes. -/

namespace Sys2Proof.Machine

/-- `STATUS` as a 2-bit value: `DONE` is bit 0, `ERR` is bit 1 (R15). -/
def Status.bits (st : Status) : BitVec 2 := BitVec.ofBool st.err ++ BitVec.ofBool st.done

/-- What the issue of any operation does, as one step:
`STATUS.DONE <- 0; STATUS.ERR <- 0; WP <- 0; RP <- 0; STEP <- 0` (R91). The surfaced error goes with
`STATUS.ERR`. -/
def State.issue (s : State) : State :=
  { s with status := ⟨false, false⟩, raised := none, wp := 0, rp := 0, stepReg := 0 }

/-- `STATUS.DONE <- 1`: the last step of an operation that ends well (R15, R128). Nothing of the
operation remains to be done. -/
def State.finish (s : State) : State :=
  { s with status := { s.status with done := true }, todo := [] }

/-- An operation is under way (R175, R186). -/
def State.busy (s : State) : Bool := !s.todo.isEmpty

/-- The operation ended with a result: `DONE = 1, ERR = 0` (R15). -/
def State.endedWell (s : State) : Bool := s.status.done && !s.status.err

end Sys2Proof.Machine
end

