-- ==== Sys2Proof/Machine/Operands.lean ====
section
/-! DEFINITION. Operand forms: how a caller presents operands (spec/30_encoding.md R59), how the block
reads `IN` and `OUT` (spec/40_common_operations.md R86), and how a caller reads a result (R187). -/

namespace Sys2Proof.Machine

/-! ### Reading -/

/-- `IN[a]`: no value at or above `ILEN` (R7, R22). -/
def State.inByte? (s : State) (a : Nat) : Option Byte :=
  if a < s.ilen then s.inBuf.read a else none

/-- `OUT[a]`: no value at or above `WP` (R7, R22). -/
def State.outByte? (s : State) (a : Nat) : Option Byte :=
  if a < s.wp then s.outBuf.read a else none

/-- `IN[0:ILEN]` (R59). -/
def State.inBytes (s : State) : List Byte := (List.range s.ilen).filterMap s.inByte?

/-- `OUT[0:WP]` (R92). -/
def State.outBytes (s : State) : List Byte := (List.range s.wp).filterMap s.outByte?

/-- The lowest index below `ILEN` at which `IN` holds no value, if any (R22). -/
def State.missingInput (s : State) : Option Nat :=
  (List.range s.ilen).find? (fun a => (s.inBuf.read a).isNone)

/-- As `missingInput`, for `BUILD_FRAME`: with an over-long payload no byte of `IN` is read (R163). -/
def State.missingPayload (s : State) : Option Nat :=
  if maxPayload < s.ilen then none else s.missingInput

/-- An operation that reads the input: a fault where a byte it would read holds no value (R22), else the
operation's own next state. -/
def whenReadable (missing : Option Nat) (t : State) : Host.Outcome State Fault Refusal :=
  match missing with
  | some a => .fault (.inputUnlisted a)
  | none => .next t

/-- The fault of a read of `IN[RP]` that cannot be made: no value stands there (R22). -/
def State.missingInputByte (s : State) : Option Fault :=
  match s.inByte? s.rp with
  | some _ => none
  | none => some (.inputUnlisted s.rp)

/-- The fault of a read of `OUT[i]` that cannot be made: no value stands there (R22). -/
def State.missingOutputByte (s : State) (i : Nat) : Option Fault :=
  match s.outByte? i with
  | some _ => none
  | none => some (.outReadOutOfRange i)

/-- Read form (a): `b = IN[RP]`, use it, `RP <- RP + 1` (R86). The second arm only makes the function
total: no step gets there, since a whole operation (`whenReadable`) and a micro-step (`microStep`) have
faulted before a read that cannot be made (R22; notes/assumptions/9.md). -/
def State.fromInput (use : State → Byte → State) (s : State) : State :=
  match s.inByte? s.rp with
  | some b => (use s b).advanceRp
  | none => s

/-- Read form (b): `b = OUT[i]`, use it (R86). The second arm only makes the function total: a micro-step
faults before a read that cannot be made, and a whole operation reads back only what it has appended
(R22, R183; notes/assumptions/9.md). -/
def State.fromOutput (use : State → Byte → State) (s : State) (i : Nat) : State :=
  match s.outByte? i with
  | some b => use s b
  | none => s

/-- Read form (a) for every input byte in ascending order: `ILEN` times (R88). -/
def State.overInput (use : State → Byte → State) (s : State) : State := (State.fromInput use)^[s.ilen] s

/-- Read form (b) for `OUT[0], ..., OUT[k-1]` in that order (R86, R88). -/
def State.overOutput (use : State → Byte → State) (s : State) (k : Nat) : State :=
  (List.range k).foldl (State.fromOutput use) s

/-! ### Presenting operands -/

/-- `IN[0:len(q)] <- q; ILEN <- len(q)` (R139). -/
def State.writeInput (s : State) (q : List Byte) : State :=
  { s with inBuf := s.inBuf.writeAll 0 q, ilen := q.length }

/-- `DST <- d; CMD_SET <- s; CMD_ID <- c; IN[0:len(q)] <- q; ILEN <- len(q)` (R139). -/
def State.writeDescriptor (s : State) (d : Descriptor) : State :=
  { s with dst := d.dst, cmdSet := d.cmdSet, cmdId := d.cmdId
           inBuf := s.inBuf.writeAll 0 d.payload, ilen := d.payload.length }

/-- The caller writes operand registers (R11, R17, R21); an omitted payload is empty (R63, R120). -/
def State.present (s : State) : Operands → State
  | .none => s
  | .data bytes => s.writeInput bytes
  | .descriptor dst cmdSet cmdId payload => s.writeDescriptor ⟨dst, cmdSet, cmdId, payload.getD []⟩
  | .toggle on => { s with argState := on }
  | .product code => { s with argPcode := code }

/-- The descriptor standing in the operand registers (R11, R21). -/
def State.descriptor (s : State) : Descriptor := ⟨s.dst, s.cmdSet, s.cmdId, s.inBytes⟩

/-! ### Reading a result -/

/-- What an ended operation delivers: `OUT[0:WP]`, or `PRED` for `IS_DELTA_MODEL` (which is the one
operation that ends with `WP = 0`), or the error; nothing before the end (R15, R92, R164). -/
def State.result (s : State) : Option Result :=
  match s.status.done, s.status.err with
  | false, _ => none
  | true, true => s.raised.map .error
  | true, false => if s.wp = 0 then some (.predicate s.pred) else some (.bytes s.outBytes)

/-- The caller's read of `OUT[a]`: only of a result, and only below `WP` (R22, R187, U13). -/
def State.readOut (s : State) (a : Nat) : Except Fault Byte :=
  if s.endedWell then
    match s.outByte? a with
    | some b => .ok b
    | none => .error (.outReadOutOfRange a)
  else .error .noResult

/-- The caller's read of `PRED`: only when the result is there (R18, R187). -/
def State.readPred (s : State) : Except Fault Bool :=
  if s.endedWell && s.wp == 0 then .ok s.pred else .error .noResult

end Sys2Proof.Machine
end

