-- ==== Sys2Proof/Machine/Checksum.lean ====
section
/-! DEFINITION. The two checksum generators CG8 and CG16 (spec/41_crc8.md, spec/42_crc16.md) and the
operations `CRC8` and `CRC16`. -/

namespace Sys2Proof.Machine

/-- CG8 initialise (R101). -/
def State.cg8Clear (s : State) : State := s.setAcc8 0x00#8

/-- CG8 update with a byte (R102). -/
def State.cg8Update (p : Params) (s : State) (b : Byte) : State :=
  s.setAcc8 (cg8Next p.table8 s.acc8 b)

/-- CG8 deliver (R103). -/
def State.emitAcc8 (s : State) : State := s.emit s.acc8

/-- CG16 initialise (R111). -/
def State.cg16Clear (s : State) : State := s.setAcc16 0x0000#16

/-- CG16 update with a byte (R112). -/
def State.cg16Update (p : Params) (s : State) (b : Byte) : State :=
  s.setAcc16 (cg16Next p.table16 s.acc16 b)

/-- CG16 deliver, first byte: bits 7..0 (R113). -/
def State.emitAcc16Low (s : State) : State := s.emit (lowByte s.acc16)

/-- CG16 deliver, second byte: bits 15..8 (R113). -/
def State.emitAcc16High (s : State) : State := s.emit (highByte s.acc16)

/-- The loop of R100 from the issued state. -/
def crc8Steps (p : Params) (s : State) : State :=
  (s.cg8Clear.overInput (State.cg8Update p)).emitAcc8.finish

/-- The loop of R110 from the issued state. -/
def crc16Steps (p : Params) (s : State) : State :=
  (s.cg16Clear.overInput (State.cg16Update p)).emitAcc16Low.emitAcc16High.finish

/-- `CRC8` (R100): total over any input. -/
def execCrc8 (s : State) : Host.Outcome State Fault Refusal :=
  whenReadable s.missingInput (crc8Steps Config.params s.issue)

/-- `CRC16` (R110): total over any input. -/
def execCrc16 (s : State) : Host.Outcome State Fault Refusal :=
  whenReadable s.missingInput (crc16Steps Config.params s.issue)

end Sys2Proof.Machine
end

