-- ==== Sys2Proof/Machine/FrameAssembler.lean ====
section
/-! DEFINITION. The fixed-layout frame assembler FA (spec/43_frame_assembler.md) and the operation
`BUILD_FRAME`. `STEP` always names the step to perform next (R14). -/

namespace Sys2Proof.Machine

/-- Step 1: magic and version (R121). -/
def faStep1 (s : State) : State := ((s.emit magicByte).emit versionByte).setStep 2

/-- Step 2: the payload length, low byte first (R122). -/
def faStep2 (s : State) : State := ((s.emit (lengthLow s.ilen)).emit (lengthHigh s.ilen)).setStep 3

/-- Step 3: the CRC-8 of `OUT[0:4]` (R123). -/
def faStep3 (p : Params) (s : State) : State :=
  (s.cg8Clear.overOutput (State.cg8Update p) 4).emitAcc8.setStep 4

/-- Step 4: the fixed mid-header (R124). -/
def faStep4 (s : State) : State := (s.emitSeq midHeader).setStep 5

/-- Step 5: destination, command set, command id (R125). -/
def faStep5 (s : State) : State := (((s.emit s.dst).emit s.cmdSet).emit s.cmdId).setStep 6

/-- Step 6: the payload, verbatim (R126). -/
def faStep6 (s : State) : State := (s.overInput State.emit).setStep 7

/-- Step 7: the CRC-16 of `OUT[0:WP]`, `WP` read once before the loop, low byte first (R127). -/
def faStep7 (p : Params) (s : State) : State :=
  (s.cg16Clear.overOutput (State.cg16Update p) s.wp).emitAcc16Low.emitAcc16High.setStep 8

/-- Step 8: return (R128). -/
def faStep8 (s : State) : State := s.finish

/-- Steps 1 to 8, in that order (R88). -/
def assemble (p : Params) (s : State) : State :=
  faStep8 (faStep7 p (faStep6 (faStep5 (faStep4 (faStep3 p (faStep2 (faStep1 s)))))))

/-- Steps 0 to 8 from the issued state: step 0 is the length check (R120, R129). -/
def frameSteps (p : Params) (s : State) : State :=
  if maxPayload < s.ilen then s.raisePayloadTooLarge s.ilen else assemble p (s.setStep 1)

/-- `BUILD_FRAME` (R120). -/
def execBuildFrame (s : State) : Host.Outcome State Fault Refusal :=
  whenReadable s.missingPayload (frameSteps Config.params s.issue)

end Sys2Proof.Machine
end

