-- ==== Sys2Proof/Machine/Catalog.lean ====
section
/-! DEFINITION. The command catalog front end CC (spec/44_command_catalog.md). A catalog operation writes
its descriptor and goes on as `BUILD_FRAME` (R139); it has itself written every byte of `IN` it reads. -/

namespace Sys2Proof.Machine

/-- Steps (2) and (3) of R139 from the issued state. -/
def catalogSteps (p : Params) (s : State) (d : Descriptor) : State := frameSteps p (s.writeDescriptor d)

/-- `PRED <- 12 < ARG_PCODE < 16` (R140). -/
def State.evalPredicate (s : State) : State := s.setPred (isDelta s.argPcode)

/-- The two-way choice of descriptor on `PRED` (R89). -/
def State.chosen (s : State) (delta other : Descriptor) : Descriptor :=
  if s.pred then delta else other

/-- A product-code query: predicate, choice, frame (R89, R143, R144). -/
def querySteps (p : Params) (s : State) (delta other : Descriptor) : State :=
  catalogSteps p s.evalPredicate (s.evalPredicate.chosen delta other)

/-- `IS_DELTA_MODEL` (R140). -/
def execIsDeltaModel (s : State) : Host.Outcome State Fault Refusal :=
  .next s.issue.evalPredicate.finish

/-- `AC_SWITCH` (R141). -/
def execAcSwitch (s : State) : Host.Outcome State Fault Refusal :=
  .next (catalogSteps Config.params s.issue (acSwitchDescriptor s.argState))

/-- `GET_PD` (R142). -/
def execGetPd (s : State) : Host.Outcome State Fault Refusal :=
  .next (catalogSteps Config.params s.issue getPdDescriptor)

/-- `GET_DC_IN_TYPE` (R143). -/
def execGetDcInType (s : State) : Host.Outcome State Fault Refusal :=
  .next (querySteps Config.params s.issue dcInTypeDelta dcInTypeOther)

/-- `GET_DC_IN_CURRENT` (R144), over the block's five `OPEN` constants. -/
def execGetDcInCurrent (s : State) : Host.Outcome State Fault Refusal :=
  .next (querySteps Config.params s.issue (dcInCurrentDelta Config.params)
    (dcInCurrentOther Config.params))

end Sys2Proof.Machine
end

