-- ==== Sys2Proof/Machine/Dispatch.lean ====
section
/-! DEFINITION. One arm per operation of spec/opcode_table.json. -/

namespace Sys2Proof.Machine

/-- The meaning of each operation, from its issue to its end. -/
def exec (i : Instr) (s : State) : Host.Outcome State Fault Refusal :=
  match i with
  | .crc8 => Sys2Proof.Machine.execCrc8 s
  | .crc16 => Sys2Proof.Machine.execCrc16 s
  | .buildFrame => Sys2Proof.Machine.execBuildFrame s
  | .isDeltaModel => Sys2Proof.Machine.execIsDeltaModel s
  | .acSwitch => Sys2Proof.Machine.execAcSwitch s
  | .getPd => Sys2Proof.Machine.execGetPd s
  | .getDcInType => Sys2Proof.Machine.execGetDcInType s
  | .getDcInCurrent => Sys2Proof.Machine.execGetDcInCurrent s

end Sys2Proof.Machine
end

