-- ==== Sys2Proof/Machine/Micro.lean ====
section
/-! DEFINITION. The step machine below `exec` (decision D1): an operation as the list of its micro-steps,
done one at a time. No micro-step is observable (R92); that the two levels agree is a statement. -/

namespace Sys2Proof.Machine

/-- Steps 1 to 8 of `BUILD_FRAME` for a payload of `n` bytes, in the fixed order of R120. Every loop's
count is fixed before it starts (R88). -/
def frameProgram (n : Nat) : List Micro :=
  [.setStep 1, .emitByte magicByte, .emitByte versionByte,
   .setStep 2, .emitLengthLow, .emitLengthHigh,
   .setStep 3, .cg8Clear, .cg8Output 0, .cg8Output 1, .cg8Output 2, .cg8Output 3, .emitAcc8,
   .setStep 4] ++ midHeader.map .emitByte
  ++ [.setStep 5, .emitDst, .emitCmdSet, .emitCmdId, .setStep 6] ++ List.replicate n .copyInput
  ++ [.setStep 7, .cg16Clear] ++ (List.range (headerLen + n)).map .cg16Output
  ++ [.emitAcc16Low, .emitAcc16High, .setStep 8, .finish]

/-- The read of a micro-step that cannot be made: `IN[RP]` or `OUT[i]` at an index that holds no value, at
or above `ILEN` or `WP` first of all (R22, R167 c; notes/assumptions/9.md). -/
def Micro.missingRead (m : Micro) (s : State) : Option Fault :=
  match m with
  | .cg8Input => s.missingInputByte
  | .cg16Input => s.missingInputByte
  | .copyInput => s.missingInputByte
  | .cg8Output i => s.missingOutputByte i
  | .cg16Output i => s.missingOutputByte i
  | .cg8Clear => none
  | .emitAcc8 => none
  | .cg16Clear => none
  | .emitAcc16Low => none
  | .emitAcc16High => none
  | .predicate => none
  | .writeDescriptor _ => none
  | .chooseDescriptor _ _ => none
  | .checkLength => none
  | .emitByte _ => none
  | .emitLengthLow => none
  | .emitLengthHigh => none
  | .emitDst => none
  | .emitCmdSet => none
  | .emitCmdId => none
  | .setStep _ => none
  | .finish => none

/-- The effect of one micro-step whose read, if it makes one, can be made (R7, R86, R87). -/
def Micro.perform (p : Params) (m : Micro) (s : State) : State :=
  match m with
  | .cg8Clear => s.cg8Clear
  | .cg8Input => s.fromInput (State.cg8Update p)
  | .cg8Output i => s.fromOutput (State.cg8Update p) i
  | .emitAcc8 => s.emitAcc8
  | .cg16Clear => s.cg16Clear
  | .cg16Input => s.fromInput (State.cg16Update p)
  | .cg16Output i => s.fromOutput (State.cg16Update p) i
  | .emitAcc16Low => s.emitAcc16Low
  | .emitAcc16High => s.emitAcc16High
  | .predicate => s.evalPredicate
  | .writeDescriptor d => s.writeDescriptor d
  | .chooseDescriptor delta other => s.writeDescriptor (s.chosen delta other)
  | .checkLength =>
    if maxPayload < s.ilen then s.raisePayloadTooLarge s.ilen
    else s.setTodo (frameProgram s.ilen ++ s.todo)
  | .emitByte b => s.emit b
  | .emitLengthLow => s.emit (lengthLow s.ilen)
  | .emitLengthHigh => s.emit (lengthHigh s.ilen)
  | .emitDst => s.emit s.dst
  | .emitCmdSet => s.emit s.cmdSet
  | .emitCmdId => s.emit s.cmdId
  | .copyInput => s.fromInput State.emit
  | .setStep k => s.setStep k
  | .finish => s.finish

/-- The micro-steps of an operation issued in state `s` (R100, R110, R120, R139 to R144). -/
def microProgram (p : Params) (i : Instr) (s : State) : List Micro :=
  match i with
  | .crc8 => .cg8Clear :: List.replicate s.ilen .cg8Input ++ [.emitAcc8, .finish]
  | .crc16 => .cg16Clear :: List.replicate s.ilen .cg16Input ++ [.emitAcc16Low, .emitAcc16High, .finish]
  | .buildFrame => [.checkLength]
  | .isDeltaModel => [.predicate, .finish]
  | .acSwitch => [.writeDescriptor (acSwitchDescriptor s.argState), .checkLength]
  | .getPd => [.writeDescriptor getPdDescriptor, .checkLength]
  | .getDcInType => [.predicate, .chooseDescriptor dcInTypeDelta dcInTypeOther, .checkLength]
  | .getDcInCurrent =>
    [.predicate, .chooseDescriptor (dcInCurrentDelta p) (dcInCurrentOther p), .checkLength]

/-- The issue of an operation without waiting for its end (R91). -/
def State.start (p : Params) (i : Instr) (s : State) : State := s.issue.setTodo (microProgram p i s)

/-- The block does the next micro-step of the operation under way, and faults on a read that cannot be
made (R22, R167 c); an idle block does nothing (R175, R180). -/
def microStep (p : Params) (s : State) : Host.Outcome State Fault Refusal :=
  match s.todo with
  | [] => .next s
  | m :: rest =>
    match m.missingRead s with
    | some f => .fault f
    | none => .next (m.perform p (s.setTodo rest))

/-- `n` micro-steps, up to the first fault. -/
def microRun (p : Params) : Nat → State → Host.Outcome State Fault Refusal
  | 0, s => .next s
  | n + 1, s =>
    match microStep p s with
    | .next t => microRun p n t
    | .fault f => .fault f
    | .refused r => .refused r

end Sys2Proof.Machine
end

