-- ==== Sys2Proof/Machine/Caller.lean ====
section
/-! DEFINITION. What each move of the caller does (spec/40_common_operations.md R91, R92;
spec/70_reset_and_hazards.md R180, R185 to R189). -/

namespace Sys2Proof.Machine

/-- An issue waited for to its end: the operation runs whole. While an operation is under way it is
refused (R186), and so is an `OP` value that names nothing (R60). -/
def callOperation (op : Byte) (s : State) : Host.Outcome State Fault Refusal :=
  if s.busy then .refused .busy
  else match decode [op] with
    | .ok (i, _) => exec i s
    | .error _ => .refused (.noSuchOperation op)

/-- An issue that is not waited for: the operation is under way afterwards (R91), and it reads nothing yet.
Refused as `callOperation`. -/
def issueOperation (op : Byte) (s : State) : Host.Outcome State Fault Refusal :=
  if s.busy then .refused .busy
  else match decode [op] with
    | .ok (i, _) => .next (s.start Config.params i)
    | .error _ => .refused (.noSuchOperation op)

/-- A read of a result: it has no side effect (R33), and it faults where there is nothing to read. -/
def afterRead {α : Type} (r : Except Fault α) (s : State) : Host.Outcome State Fault Refusal :=
  match r with
  | .ok _ => .next s
  | .error f => .fault f

/-- One move of the caller, with the moves after it: `s.script = m :: rest`. DESIGN CHOICE: a wait ends as
soon as no operation is under way, also on a block where nothing was ever issued and `STATUS.DONE` is 0
(R39, R189; notes/assumptions/23.md). -/
def callerMove (m : CallerMove) (rest : List CallerMove) (s : State) :
    Host.Outcome State Fault Refusal :=
  match m with
  | .present o => if s.busy then .refused .operandsHeld else .next ((s.setScript rest).present o)
  | .call op => callOperation op (s.setScript rest)
  | .issue op => issueOperation op (s.setScript rest)
  | .wait => if s.busy then microStep Config.params s else .next (s.setScript rest)
  | .readOut a => afterRead (s.readOut a) (s.setScript rest)
  | .readPred => afterRead s.readPred (s.setScript rest)
  | .reset => .next (State.reset.setScript rest)

end Sys2Proof.Machine
end

