-- ==== Sys2Proof/Machine/Step.lean ====
section
/-! DEFINITION. One step of the machine: the caller's next move, or, when no move is pending, the next
micro-step of the block (an idle block stays as it is; R175, R180). -/

namespace Sys2Proof.Machine

/-- One step. -/
def step (s : State) : Host.Outcome State Fault Refusal :=
  match s.script with
  | [] => microStep Config.params s
  | m :: rest => callerMove m rest s

/-- `s` with the issue of the table word `w` as the caller's next move, on an idle block: the very next
step runs that operation on the operands that stand in the registers (notes/assumptions/7.md). -/
def State.withFetchWord (s : State) (nbits w : Nat) : State :=
  (s.setTodo []).setScript (.call (tableWordOp nbits w) :: s.script)

end Sys2Proof.Machine
end

