-- ==== Sys2Proof/Machine/Functional.lean ====
section
/-! DEFINITION. The functional model (spec/00_scope.md R8): every operation as a pure function of its
operands and the parameters. The step machine is compared with it; the machine never calls it. -/

namespace Sys2Proof.Machine

/-- `crc8_acc` (R100). -/
def crc8Acc (table8 : Byte → Byte) : Byte → List Byte → Byte
  | acc, [] => acc
  | acc, b :: bs => crc8Acc table8 (table8 ((acc ^^^ b) &&& 0xFF#8)) bs

/-- `crc8` (R100). -/
def crc8 (table8 : Byte → Byte) (bs : List Byte) : Byte := crc8Acc table8 0x00#8 bs

/-- `crc16_acc` (R110). -/
def crc16Acc (table16 : Byte → Word16) : Word16 → List Byte → Word16
  | acc, [] => acc
  | acc, b :: bs =>
    crc16Acc table16 (table16 (((acc ^^^ zext16 b) &&& 0x00FF#16).setWidth 8) ^^^ (acc >>> 8)) bs

/-- `crc16` (R110). -/
def crc16 (table16 : Byte → Word16) (bs : List Byte) : Word16 := crc16Acc table16 0x0000#16 bs

/-- `h` of R120: magic, version and the 16-bit length of the payload, low byte first. -/
def frameHead (n : Nat) : List Byte := [magicByte, versionByte] ++ le16 (BitVec.ofNat 16 n)

/-- `g` of R120: every frame byte before the CRC-16. -/
def frameBody (table8 : Byte → Byte) (d : Descriptor) : List Byte :=
  frameHead d.payload.length ++ [crc8 table8 (frameHead d.payload.length)] ++ midHeader
    ++ [d.dst, d.cmdSet, d.cmdId] ++ d.payload

/-- The frame of a descriptor (R50, R120). -/
def frame (p : Params) (d : Descriptor) : List Byte :=
  frameBody p.table8 d ++ le16 (crc16 p.table16 (frameBody p.table8 d))

/-- Bit `k` of a frame: bit `k mod 8` of the byte at offset `floor(k / 8)` (R51). -/
def frameBit (f : List Byte) (k : Nat) : Option Bool := f[k / 8]?.map (fun b => b.getLsbD (k % 8))

/-- `build_frame`: the frame, or the error when the payload is longer than 65535 bytes (R120). -/
def buildFrame (p : Params) (d : Descriptor) : Result :=
  if maxPayload < d.payload.length then .error (.payloadTooLarge d.payload.length)
  else .bytes (frame p d)

/-- The operands as values (R8, R59). -/
structure OperandValues where
  /-- `DST`, `CMD_SET`, `CMD_ID` and `IN[0:ILEN]`. -/
  descriptor : Descriptor
  /-- `ARG_STATE`. -/
  argState : Bool
  /-- `ARG_PCODE`. -/
  argPcode : Int
deriving DecidableEq, Repr

/-- The operands standing in the operand registers. -/
def State.operandValues (s : State) : OperandValues := ⟨s.descriptor, s.argState, s.argPcode⟩

/-- The result of each operation as a function of its operands (R8, R93). -/
def opResult (p : Params) (i : Instr) (v : OperandValues) : Result :=
  match i with
  | .crc8 => .bytes [crc8 p.table8 v.descriptor.payload]
  | .crc16 => .bytes (le16 (crc16 p.table16 v.descriptor.payload))
  | .buildFrame => buildFrame p v.descriptor
  | .isDeltaModel => .predicate (isDelta v.argPcode)
  | .acSwitch => buildFrame p (acSwitchDescriptor v.argState)
  | .getPd => buildFrame p getPdDescriptor
  | .getDcInType => buildFrame p (if isDelta v.argPcode then dcInTypeDelta else dcInTypeOther)
  | .getDcInCurrent =>
    buildFrame p (if isDelta v.argPcode then dcInCurrentDelta p else dcInCurrentOther p)

/-- The operands of a request as values (R59, R63). What its form does not give is filled with 0; no
operation that takes the form reads it. -/
def presentedValues (o : Operands) : OperandValues :=
  match o with
  | .none => ⟨⟨0#8, 0#8, 0#8, []⟩, false, 0⟩
  | .data bytes => ⟨⟨0#8, 0#8, 0#8, bytes⟩, false, 0⟩
  | .descriptor dst cmdSet cmdId payload => ⟨⟨dst, cmdSet, cmdId, payload.getD []⟩, false, 0⟩
  | .toggle on => ⟨⟨0#8, 0#8, 0#8, []⟩, on, 0⟩
  | .product code => ⟨⟨0#8, 0#8, 0#8, []⟩, false, code⟩

/-- The result of a well-formed request, from the operands presented with it (R59, R93). -/
def requestResult (p : Params) (r : Request) : Result := opResult p r.instr (presentedValues r.operands)

end Sys2Proof.Machine
end

