-- ==== Sys2Proof/Safety.lean ====
section
/-! DEFINITION. What counts as a sound state and a safe step, in the terms the statements use. -/

namespace Sys2Proof.Machine

/-- Every byte of `IN` below `ILEN` holds a value (R21). -/
def State.InputListed (s : State) : Prop := ∀ a, a < s.ilen → (s.inBuf.read a).isSome = true

/-- Every byte of `OUT` below `WP` holds a value (R21). -/
def State.OutputListed (s : State) : Prop := ∀ a, a < s.wp → (s.outBuf.read a).isSome = true

/-- `DONE = 0, ERR = 1` never occurs, and `ERR = 1` exactly while an error is surfaced (R15, R164). -/
def State.StatusLegal (s : State) : Prop :=
  (s.status.err = true → s.status.done = true) ∧ (s.status.err = s.raised.isSome)

/-- While an operation is under way, `STATUS` is 0 (R15, R91). -/
def State.BusyNotDone (s : State) : Prop := s.busy = true → s.status = ⟨false, false⟩

/-- The invariant of the machine: the buffers are in canonical form and hold a value wherever a rule can
read, and the status register is as R15 says. -/
structure State.Inv (s : State) : Prop where
  /-- `IN` is in canonical form. -/
  inWf : s.inBuf.wf
  /-- `OUT` is in canonical form. -/
  outWf : s.outBuf.wf
  /-- The input is there. -/
  inputListed : s.InputListed
  /-- The appended bytes are there. -/
  outputListed : s.OutputListed
  /-- The status is legal. -/
  statusLegal : s.StatusLegal
  /-- An operation under way is not done. -/
  busyNotDone : s.BusyNotDone

/-- A move the table of R189 (with R182, R185, R186) gives the caller of an idle block, other than a read
of a result. -/
def dutiful (m : CallerMove) : Bool :=
  match m with
  | .present _ => true
  | .call op => (decodeOp op).isSome
  | .issue op => (decodeOp op).isSome
  | .wait => true
  | .readOut _ => false
  | .readPred => false
  | .reset => true

end Sys2Proof.Machine
end

