-- ==== Sys2Proof/Certificates/Slice0/Obligations.lean ====
section
/-! DEFINITION. The statements for the provers. Wherever a statement names `Config.params` or
`Config.table8`, it holds whatever those open parameters are; none rests on a value of one. Two rest on
reset values the model chose (notes/assumptions/1.md) and say so: `ResetHoldsInvariant`, and
`StepKeepsInvariant` for the step that applies reset. -/

open Sys2Proof Sys2Proof.Machine

/-! ### Encoding of requests -/

/-- R59: each `OP` value of the table names its operation. -/
def Obligations.OpValuesNameTheirOperations : Prop :=
  decodeTableWord 8 0x01 = some .crc8 ∧ decodeTableWord 8 0x02 = some .crc16 ∧
  decodeTableWord 8 0x03 = some .buildFrame ∧ decodeTableWord 8 0x10 = some .isDeltaModel ∧
  decodeTableWord 8 0x11 = some .acSwitch ∧ decodeTableWord 8 0x12 = some .getPd ∧
  decodeTableWord 8 0x13 = some .getDcInType ∧ decodeTableWord 8 0x14 = some .getDcInCurrent

/-- R59, R60: over all byte lists, the decoder accepts exactly the encodings, and gives back what
follows them. -/
def Obligations.DecodeAcceptsExactlyEncodings : Prop :=
  ∀ (bytes rest : List Byte) (i : Instr), decode bytes = .ok (i, rest) ↔ bytes = encode i ++ rest

/-- R60: an `OP` value that is not in the table is refused by an idle block, whether the caller waits or
not. -/
def Obligations.UnnamedOpIsRefused : Prop :=
  ∀ (s : State) (op : Byte) (rest : List CallerMove),
    op ∉ [0x01#8, 0x02#8, 0x03#8, 0x10#8, 0x11#8, 0x12#8, 0x13#8, 0x14#8] → s.busy = false →
    (s.script = .call op :: rest ∨ s.script = .issue op :: rest) →
    step s = .refused (.noSuchOperation op)

/-- R63, R145: a mnemonic and the document's spelling of it name the same operation; a constructor of any
other name is refused. -/
def Obligations.MnemonicsNameTheirOperations : Prop :=
  instrOfName "CRC8" = some .crc8 ∧ instrOfName "crc8" = some .crc8 ∧
  instrOfName "CRC16" = some .crc16 ∧ instrOfName "crc16" = some .crc16 ∧
  instrOfName "BUILD_FRAME" = some .buildFrame ∧ instrOfName "build_frame" = some .buildFrame ∧
  instrOfName "IS_DELTA_MODEL" = some .isDeltaModel ∧
  instrOfName "is_delta_model" = some .isDeltaModel ∧
  instrOfName "AC_SWITCH" = some .acSwitch ∧ instrOfName "ac_switch" = some .acSwitch ∧
  instrOfName "GET_PD" = some .getPd ∧ instrOfName "get_pd" = some .getPd ∧
  instrOfName "GET_DC_IN_TYPE" = some .getDcInType ∧
  instrOfName "get_dc_in_type" = some .getDcInType ∧
  instrOfName "GET_DC_IN_CURRENT" = some .getDcInCurrent ∧
  ∀ name : String,
    name ∉ ["CRC8", "CRC16", "BUILD_FRAME", "IS_DELTA_MODEL", "AC_SWITCH", "GET_PD",
      "GET_DC_IN_TYPE", "GET_DC_IN_CURRENT", "crc8", "crc16", "build_frame", "is_delta_model",
      "ac_switch", "get_pd", "get_dc_in_type"] → instrOfName name = none

/-! ### Reset and the invariant -/

/-- R25, R180: after reset `STATUS` is 0, no operation is under way and there is no result. -/
def Obligations.ResetIsIdleWithStatusZero : Prop :=
  State.reset.status.bits = 0#2 ∧ State.reset.busy = false ∧ State.reset.result = none

/-- R180, R175: an idle block with no request pending does nothing. (That a step exists there is the
model's choice, notes/assumptions/5.md.) -/
def Obligations.IdleBlockDoesNothing : Prop :=
  ∀ s : State, s.busy = false → s.script = [] → step s = .next s

/-- R180: reset abandons whatever is under way, delivers no result, and leaves the block idle. (That it
can come at any time is the model's choice, notes/assumptions/13.md.) -/
def Obligations.ResetAbandonsTheOperation : Prop :=
  ∀ (s : State) (rest : List CallerMove), s.script = .reset :: rest →
    ∃ t, step s = .next t ∧ t.busy = false ∧ t.result = none ∧ t.status.bits = 0#2 ∧ t.script = rest

/-- The invariant holds after reset. (That the input and the output are there rests on `ILEN = 0` and
`WP = 0` after reset, which R25 leaves without a value: the model's choice, notes/assumptions/1.md.) -/
def Obligations.ResetHoldsInvariant : Prop := State.reset.Inv

/-- Every step keeps the invariant: canonical buffers, a value wherever a rule can read, and the legal
values of `STATUS` (R15, R21, R22). (For the step that applies reset this rests on the model's reset
values, notes/assumptions/1.md, and on reset as a move, notes/assumptions/13.md.) -/
def Obligations.StepKeepsInvariant : Prop :=
  ∀ s t : State, s.Inv → step s = .next t → t.Inv

/-! ### One step of the machine -/

/-- R91, R92: the step of an idle block whose caller calls an operation is that operation's meaning, on
the state with the request taken; the same of a table word placed as the next request. (The list of moves is
the model's, notes/assumptions/5.md and 7.md.) -/
def Obligations.StepRunsTheCalledOperation : Prop :=
  (∀ (s : State) (op : Byte) (i : Instr) (rest : List CallerMove),
    s.busy = false → s.script = .call op :: rest → decodeOp op = some i →
    step s = exec i (s.setScript rest)) ∧
  (∀ (s : State) (i : Instr), s.busy = false →
    step (s.withFetchWord 8 (encodeOp i).toNat) = exec i s)

/-- R91: the issue of an operation without waiting puts that operation under way, with its own
micro-steps to do: `STATUS`, `WP`, `RP` and `STEP` are 0, every other register and both buffers as they
were. Nothing is read yet, so no input needs to be there. (`todo` and `raised` are the model's own fields,
notes/assumptions/6.md and 12.md.) -/
def Obligations.IssuePutsTheOperationUnderWay : Prop :=
  ∀ (s : State) (op : Byte) (i : Instr) (rest : List CallerMove),
    s.busy = false → s.script = .issue op :: rest → decodeOp op = some i →
    ∃ t, step s = .next t ∧ t = (s.setScript rest).start Config.params i ∧ t.busy = true ∧
      t = { s with status := ⟨false, false⟩, raised := none, wp := 0, rp := 0, stepReg := 0
                   todo := microProgram Config.params i s, script := rest }

/-- R39, R92: while an operation is under way, waiting is one micro-step of the block after another, with
or without the caller's `wait`; when none is under way, the wait is over, also where `STATUS.DONE` is 0
because nothing was ever issued. (Micro-steps as machine steps and the end of a wait are the model's
choices, notes/assumptions/6.md and 23.md.) -/
def Obligations.WaitingRunsTheMicroSteps : Prop :=
  ∀ (s : State) (rest : List CallerMove),
    (s.script = [] → step s = microStep Config.params s) ∧
    (s.script = .wait :: rest → s.busy = true → step s = microStep Config.params s) ∧
    (s.script = .wait :: rest → s.busy = false → step s = .next (s.setScript rest))

/-- R186: one operation at a time; an issue while an operation is under way is refused, whatever `OP` is. -/
def Obligations.IssueWhileBusyIsRefused : Prop :=
  ∀ (s : State) (op : Byte) (rest : List CallerMove), s.busy = true →
    (s.script = .call op :: rest ∨ s.script = .issue op :: rest) → step s = .refused .busy

/-- R185: presenting operands while an operation is under way is refused. (R185 gives the caller no such
move; that the model has the move and refuses it is its choice, notes/assumptions/11.md.) -/
def Obligations.OperandsAreHeldWhileBusy : Prop :=
  ∀ (s : State) (o : Operands) (rest : List CallerMove), s.busy = true →
    s.script = .present o :: rest → step s = .refused .operandsHeld

/-- R11, R17, R21, R59, R63: the step of an idle block whose caller presents operands writes exactly the
registers of that form; an omitted payload is the empty sequence. -/
def Obligations.PresentWritesTheOperands : Prop :=
  ∀ (s : State) (d : List Byte) (dst cmdSet cmdId : Byte) (q : Option (List Byte)) (on : Bool) (n : Int),
    (∀ (o : Operands) (rest : List CallerMove), s.busy = false → s.script = .present o :: rest →
      step s = .next ((s.setScript rest).present o)) ∧
    (s.present .none = s) ∧
    ((s.present (.data d)).inBytes = d ∧ (s.present (.data d)).ilen = d.length ∧
      (s.present (.data d)).InputListed ∧
      s.present (.data d) = { s with inBuf := (s.present (.data d)).inBuf, ilen := d.length }) ∧
    ((s.present (.descriptor dst cmdSet cmdId q)).descriptor = ⟨dst, cmdSet, cmdId, q.getD []⟩ ∧
      (s.present (.descriptor dst cmdSet cmdId q)).InputListed ∧
      s.present (.descriptor dst cmdSet cmdId q) =
        { s with dst := dst, cmdSet := cmdSet, cmdId := cmdId, ilen := (q.getD []).length
                 inBuf := (s.present (.descriptor dst cmdSet cmdId q)).inBuf }) ∧
    (s.present (.toggle on) = { s with argState := on }) ∧
    (s.present (.product n) = { s with argPcode := n })

/-- R22, R33, R187: a caller's read of `OUT[a]` gives the byte of the result and changes nothing; it
faults at or above `WP`, and whenever there is no result. (The faults are the model's,
notes/assumptions/10.md.) -/
def Obligations.ResultReadsAreGuarded : Prop :=
  ∀ (s : State) (a : Nat) (rest : List CallerMove), s.script = .readOut a :: rest →
    (s.status = ⟨true, false⟩ → s.OutputListed → a < s.wp →
      (∃ b, s.readOut a = .ok b ∧ s.outByte? a = some b) ∧ step s = .next (s.setScript rest)) ∧
    (s.status = ⟨true, false⟩ → s.wp ≤ a → step s = .fault (.outReadOutOfRange a)) ∧
    (s.status ≠ ⟨true, false⟩ → step s = .fault .noResult)

/-- R18, R187: `PRED` is read only as the result of an operation that ended well with `WP = 0`; the read
changes nothing. That only `IS_DELTA_MODEL` ends so is in the statements of the operations' results. (The
model's reading, notes/assumptions/10.md.) -/
def Obligations.PredicateReadsAreGuarded : Prop :=
  ∀ (s : State) (rest : List CallerMove), s.script = .readPred :: rest →
    (s.status = ⟨true, false⟩ ∧ s.wp = 0 →
      s.readPred = .ok s.pred ∧ s.result = some (.predicate s.pred) ∧
      step s = .next (s.setScript rest)) ∧
    (¬(s.status = ⟨true, false⟩ ∧ s.wp = 0) → step s = .fault .noResult)

/-- R187: the result of an ended operation stays as it is, whatever else the caller does, until the next
issue (or a reset). -/
def Obligations.ResultStaysUntilTheNextIssue : Prop :=
  ∀ s t : State, s.busy = false → step s = .next t →
    (∀ op rest, s.script ≠ .call op :: rest) → (∀ op rest, s.script ≠ .issue op :: rest) →
    (∀ rest, s.script ≠ .reset :: rest) →
    t.result = s.result ∧ t.outBytes = s.outBytes ∧ t.pred = s.pred ∧ t.status = s.status ∧
      t.busy = false

/-- R182, R189: from a sound idle state, a caller who presents operands, issues a named operation, waits
or resets is never stopped. (That `GET_DC_IN_CURRENT` is among the named operations that run, that reset is
a move at any time and that a wait on an idle block ends at once are the model's choices,
notes/assumptions/4.md, 13.md and 23.md.) -/
def Obligations.DutifulCallerIsNeverStopped : Prop :=
  ∀ (s : State) (m : CallerMove) (rest : List CallerMove), s.Inv → s.busy = false →
    s.script = m :: rest → dutiful m = true → ∃ t, step s = .next t ∧ t.script = rest

/-! ### The generators -/

/-- R101, R102: CG8 initialise and update; nothing but `ACC8` is written. -/
def Obligations.Cg8InitialisesAndUpdates : Prop :=
  ∀ (p : Params) (s : State) (b : Byte),
    s.cg8Clear = { s with acc8 := 0x00#8 } ∧
    s.cg8Update p b = { s with acc8 := p.table8 ((s.acc8 ^^^ b) &&& 0xFF#8) }

/-- R111, R112: CG16 initialise and update; both uses of `ACC16` on the right are the old value, and
nothing but `ACC16` is written. -/
def Obligations.Cg16InitialisesAndUpdates : Prop :=
  ∀ (p : Params) (s : State) (b : Byte),
    s.cg16Clear = { s with acc16 := 0x0000#16 } ∧
    s.cg16Update p b =
      { s with acc16 :=
          p.table16 (((s.acc16 ^^^ b.setWidth 16) &&& 0x00FF#16).setWidth 8) ^^^ (s.acc16 >>> 8) }

/-- R82: the CG16 index is the low byte of the accumulator xor the byte; the mask changes nothing in
CG8. -/
def Obligations.MaskedIndexIsTheLowByte : Prop :=
  (∀ (a : Word16) (b : Byte), cg16Index a b = lowByte a ^^^ b) ∧
  (∀ (t : Byte → Byte) (a b : Byte), cg8Next t a b = t (a ^^^ b))

/-- R100: the recursion that gives the CRC-8, with the worked example; `CRC8` completes on every input, of
every length, and leaves the CRC-8 of the input as the one byte of the result; on an empty input that is
`0x00`, on a one-byte input the table entry. -/
def Obligations.Crc8GivesTheChecksum : Prop :=
  decodeOp 0x01#8 = some .crc8 ∧
  (∀ (t8 : Byte → Byte) (a b : Byte) (l : List Byte),
    crc8Acc t8 a [] = a ∧ crc8Acc t8 a (b :: l) = crc8Acc t8 (t8 ((a ^^^ b) &&& 0xFF#8)) l ∧
    crc8 t8 l = crc8Acc t8 0x00#8 l ∧
    crc8 t8 [0xAA#8, 0x02#8, 0x07#8, 0x00#8] =
      t8 (t8 (t8 (t8 0xAA#8 ^^^ 0x02#8) ^^^ 0x07#8) ^^^ 0x00#8)) ∧
  ∀ s : State, s.InputListed →
    ∃ t, exec .crc8 s = .next t ∧ t.outBytes = [crc8 Config.table8 s.inBytes] ∧ t.wp = 1 ∧
      t.status = ⟨true, false⟩ ∧ t.result = some (.bytes [crc8 Config.table8 s.inBytes]) ∧
      (s.inBytes = [] → t.outBytes = [0x00#8]) ∧
      (∀ b, s.inBytes = [b] → t.outBytes = [Config.table8 b])

/-- R110: the recursion that gives the CRC-16, with the worked example; `CRC16` completes on every input,
of every length, and leaves the CRC-16 of the input as two bytes, low byte first; on an empty input
`0x00 0x00`, on a one-byte input the table entry. -/
def Obligations.Crc16GivesTheChecksum : Prop :=
  decodeOp 0x02#8 = some .crc16 ∧
  (∀ (t16 : Byte → Word16) (a : Word16) (b : Byte) (l : List Byte),
    crc16Acc t16 a [] = a ∧
    crc16Acc t16 a (b :: l) = crc16Acc t16
      (t16 (((a ^^^ b.setWidth 16) &&& 0x00FF#16).setWidth 8) ^^^ (a >>> 8)) l ∧
    crc16 t16 l = crc16Acc t16 0x0000#16 l) ∧
  crc16 t16Arc [0x01#8, 0x02#8] = 0x5180#16 ∧
  ∀ s : State, s.InputListed →
    ∃ t, exec .crc16 s = .next t ∧
      t.outBytes = [(crc16 Config.table16 s.inBytes).extractLsb' 0 8,
                    (crc16 Config.table16 s.inBytes).extractLsb' 8 8] ∧ t.wp = 2 ∧
      t.status = ⟨true, false⟩ ∧ t.result = some (.bytes t.outBytes) ∧
      (s.inBytes = [] → t.outBytes = [0x00#8, 0x00#8]) ∧
      (∀ b, s.inBytes = [b] →
        t.outBytes = [(Config.table16 b).extractLsb' 0 8, (Config.table16 b).extractLsb' 8 8])

/-- The frame of `CRC8` and `CRC16` (R12, R13, R87, R100, R110): beside the accumulator of its own
generator, `OUT` below the new `WP`, the counters and `STATUS`, nothing changes; `RP` ends at `ILEN`. -/
def Obligations.ChecksumOperationsFrame : Prop :=
  (∀ s t : State, exec .crc8 s = .next t →
    t = { s with acc8 := crc8 Config.table8 s.inBytes, outBuf := t.outBuf, wp := 1, rp := s.ilen
                 stepReg := 0, status := ⟨true, false⟩, raised := none, todo := [] } ∧
    ∀ a, t.wp ≤ a → t.outBuf.read a = s.outBuf.read a) ∧
  (∀ s t : State, exec .crc16 s = .next t →
    t = { s with acc16 := crc16 Config.table16 s.inBytes, outBuf := t.outBuf, wp := 2, rp := s.ilen
                 stepReg := 0, status := ⟨true, false⟩, raised := none, todo := [] } ∧
    ∀ a, t.wp ≤ a → t.outBuf.read a = s.outBuf.read a)

/-- R104, R115: the checksum of the empty sequence, for every table. -/
def Obligations.EmptyInputGivesZero : Prop :=
  (∀ t8 : Byte → Byte, crc8 t8 [] = 0x00#8) ∧
  (∀ t16 : Byte → Word16, crc16 t16 [] = 0x0000#16 ∧ le16 (crc16 t16 []) = [0x00#8, 0x00#8])

/-- R106, R116: the accumulator after a sequence is all that the rest of the computation needs. -/
def Obligations.ChecksumsCompose : Prop :=
  (∀ (t8 : Byte → Byte) (u v : List Byte), crc8 t8 (u ++ v) = crc8Acc t8 (crc8 t8 u) v) ∧
  (∀ (t16 : Byte → Word16) (u v : List Byte), crc16 t16 (u ++ v) = crc16Acc t16 (crc16 t16 u) v)

/-- R114: the listed table `T16_ARC` is what the formula gives. (The constant 0xA001 is the spec's
general knowledge, G1; notes/assumptions/3.md.) -/
def Obligations.ArcTableIsTheFormula : Prop := ∀ i : Byte, t16Arc i = arcFormula i

/-- R117: with `T16_ARC` only, leading zero bytes change nothing and the CRC-16 is linear over xor on
inputs of equal length; neither holds of every table; no frame begins with a zero byte. -/
def Obligations.ArcChecksumIsLinear : Prop :=
  t16Arc 0x00#8 = 0x0000#16 ∧
  (¬∀ (t16 : Byte → Word16) (u : List Byte), crc16 t16 (0x00#8 :: u) = crc16 t16 u) ∧
  (¬∀ (t16 : Byte → Word16) (u v : List Byte), u.length = v.length →
    crc16 t16 (List.zipWith (· ^^^ ·) u v) = crc16 t16 u ^^^ crc16 t16 v) ∧
  (∀ (p : Params) (d : Descriptor), (frame p d)[0]? = some 0xAA#8) ∧
  (∀ u : List Byte, crc16 t16Arc (0x00#8 :: u) = crc16 t16Arc u) ∧
  (∀ u v : List Byte, u.length = v.length →
    crc16 t16Arc (List.zipWith (· ^^^ ·) u v) = crc16 t16Arc u ^^^ crc16 t16Arc v)

/-- spec/95_test_vectors.md section 5: with `T16_ARC` only, the CRC-16 of a whole produced frame, its own
two CRC bytes included, is `0x0000`. -/
def Obligations.ArcFrameChecksToZero : Prop :=
  ∀ (p : Params) (d : Descriptor), p.table16 = t16Arc → crc16 t16Arc (frame p d) = 0x0000#16

/-! ### The frame -/

/-- R50: the frame byte layout, field by field. -/
def Obligations.FrameBytesAreLaidOut : Prop :=
  ∀ (p : Params) (d : Descriptor) (n : Nat), n = d.payload.length → n ≤ 65535 →
    (frame p d).length = 18 + n ∧
    (frame p d)[0]? = some 0xAA#8 ∧ (frame p d)[1]? = some 0x02#8 ∧
    (frame p d)[2]? = some (BitVec.ofNat 8 (n % 256)) ∧
    (frame p d)[3]? = some (BitVec.ofNat 8 (n / 256)) ∧
    (frame p d)[4]? = some (crc8 p.table8 ((frame p d).take 4)) ∧
    (frame p d)[5]? = some 0x0D#8 ∧
    (∀ k, 6 ≤ k → k ≤ 11 → (frame p d)[k]? = some 0x00#8) ∧
    (frame p d)[12]? = some 0x20#8 ∧
    (frame p d)[13]? = some d.dst ∧ (frame p d)[14]? = some d.cmdSet ∧
    (frame p d)[15]? = some d.cmdId ∧
    (∀ i, i < n → (frame p d)[16 + i]? = d.payload[i]?) ∧
    (frame p d)[16 + n]? = some ((crc16 p.table16 ((frame p d).take (16 + n))).extractLsb' 0 8) ∧
    (frame p d)[17 + n]? = some ((crc16 p.table16 ((frame p d).take (16 + n))).extractLsb' 8 8)

/-- R51: the same layout by bit. -/
def Obligations.FrameBitsAreLaidOut : Prop :=
  ∀ (p : Params) (d : Descriptor) (n : Nat), n = d.payload.length → n ≤ 65535 →
    (∀ j, j < 8 →
      frameBit (frame p d) j = some ((0xAA#8).getLsbD j) ∧
      frameBit (frame p d) (8 + j) = some ((0x02#8).getLsbD j) ∧
      frameBit (frame p d) (16 + j) = some (n.testBit j) ∧
      frameBit (frame p d) (24 + j) = some (n.testBit (8 + j)) ∧
      frameBit (frame p d) (32 + j) = some ((crc8 p.table8 ((frame p d).take 4)).getLsbD j) ∧
      frameBit (frame p d) (40 + j) = some ((0x0D#8).getLsbD j) ∧
      frameBit (frame p d) (96 + j) = some ((0x20#8).getLsbD j) ∧
      frameBit (frame p d) (104 + j) = some (d.dst.getLsbD j) ∧
      frameBit (frame p d) (112 + j) = some (d.cmdSet.getLsbD j) ∧
      frameBit (frame p d) (120 + j) = some (d.cmdId.getLsbD j) ∧
      (∀ i, i < n → frameBit (frame p d) (128 + 8 * i + j) =
        d.payload[i]?.map (fun b => b.getLsbD j)) ∧
      frameBit (frame p d) (128 + 8 * n + j) =
        some ((crc16 p.table16 ((frame p d).take (16 + n))).getLsbD j) ∧
      frameBit (frame p d) (128 + 8 * n + 8 + j) =
        some ((crc16 p.table16 ((frame p d).take (16 + n))).getLsbD (8 + j))) ∧
    (∀ k, 48 ≤ k → k ≤ 95 → frameBit (frame p d) k = some false)

/-- R130, R131: the length of a frame, its length field, and the round trip of both check fields, for
every pair of tables. -/
def Obligations.FrameRoundTrips : Prop :=
  ∀ (p : Params) (d : Descriptor), d.payload.length ≤ 65535 →
    (frame p d).length = 16 + d.payload.length + 2 ∧
    (∃ lo hi : Byte, (frame p d)[2]? = some lo ∧ (frame p d)[3]? = some hi ∧
      lo.toNat + 256 * hi.toNat = d.payload.length) ∧
    (frame p d)[4]? = some (crc8 p.table8 ((frame p d).take 4)) ∧
    le16 (crc16 p.table16 ((frame p d).take ((frame p d).length - 2))) =
      (frame p d).drop ((frame p d).length - 2)

/-- R55: the header check byte is the CRC-8 of magic, version and length; two frames of one payload length
agree in their first 13 bytes whatever else is in them. -/
def Obligations.HeaderCheckDependsOnLengthOnly : Prop :=
  ∀ (p p' : Params) (d d' : Descriptor), p'.table8 = p.table8 →
    d'.payload.length = d.payload.length → d.payload.length ≤ 65535 →
    (frame p d)[4]? = some (crc8 p.table8
      [0xAA#8, 0x02#8, BitVec.ofNat 8 (d.payload.length % 256),
       BitVec.ofNat 8 (d.payload.length / 256)]) ∧
    (frame p' d').take 13 = (frame p d).take 13

/-- R121, R122, R124, R125: the steps that append constants and operands, from the `WP` each starts at. -/
def Obligations.AppendStepsWriteTheirBytes : Prop :=
  (∀ s : State, s.wp = 0 →
    (faStep1 s).outByte? 0 = some 0xAA#8 ∧ (faStep1 s).outByte? 1 = some 0x02#8 ∧
    (faStep1 s).wp = 2) ∧
  (∀ s : State, s.wp = 2 → s.ilen ≤ 65535 →
    (faStep2 s).outByte? 2 = some (BitVec.ofNat 8 (s.ilen % 256)) ∧
    (faStep2 s).outByte? 3 = some (BitVec.ofNat 8 (s.ilen / 256)) ∧ (faStep2 s).wp = 4) ∧
  (∀ s : State, s.wp = 5 →
    (faStep4 s).outByte? 5 = some 0x0D#8 ∧
    (∀ a, 6 ≤ a → a ≤ 11 → (faStep4 s).outByte? a = some 0x00#8) ∧
    (faStep4 s).outByte? 12 = some 0x20#8 ∧ (faStep4 s).wp = 13) ∧
  (∀ s : State, s.wp = 13 →
    (faStep5 s).outByte? 13 = some s.dst ∧ (faStep5 s).outByte? 14 = some s.cmdSet ∧
    (faStep5 s).outByte? 15 = some s.cmdId ∧ (faStep5 s).wp = 16)

/-- R123, R126, R127: the steps that read bytes back or copy the payload. -/
def Obligations.ReadingStepsWriteTheirBytes : Prop :=
  (∀ (p : Params) (s : State), s.wp = 4 →
    (faStep3 p s).outByte? 4 = some (crc8 p.table8 s.outBytes) ∧ (faStep3 p s).wp = 5 ∧
    ∀ a, a < 4 → (faStep3 p s).outByte? a = s.outByte? a) ∧
  (∀ s : State, s.wp = 16 → s.rp = 0 → s.InputListed →
    (∀ i, i < s.ilen → (faStep6 s).outByte? (16 + i) = s.inByte? i) ∧
    (faStep6 s).wp = 16 + s.ilen ∧ ∀ a, a < 16 → (faStep6 s).outByte? a = s.outByte? a) ∧
  (∀ (p : Params) (s : State), s.wp = 16 + s.ilen →
    (faStep7 p s).outByte? (16 + s.ilen) = some ((crc16 p.table16 s.outBytes).extractLsb' 0 8) ∧
    (faStep7 p s).outByte? (17 + s.ilen) = some ((crc16 p.table16 s.outBytes).extractLsb' 8 8) ∧
    (faStep7 p s).wp = 18 + s.ilen ∧
    ∀ a, a < 16 + s.ilen → (faStep7 p s).outByte? a = s.outByte? a)

/-- R120: `BUILD_FRAME` completes on every descriptor with `N <= 65535` and leaves in `OUT` the bytes `g`
and the CRC-16 of `g`, written out as the rule does; with `N > 65535` its result is the error (with its
argument, notes/assumptions/12.md). An omitted payload is the empty sequence. -/
def Obligations.BuildFrameGivesTheFrame : Prop :=
  decodeOp 0x03#8 = some .buildFrame ∧
  (∀ s : State, s.InputListed → s.ilen ≤ 65535 →
    ∃ (t : State) (h g : List Byte), exec .buildFrame s = .next t ∧
      h = [0xAA#8, 0x02#8, BitVec.ofNat 8 (s.ilen % 256), BitVec.ofNat 8 (s.ilen / 256)] ∧
      g = h ++ [crc8 Config.table8 h]
        ++ [0x0D#8, 0x00#8, 0x00#8, 0x00#8, 0x00#8, 0x00#8, 0x00#8, 0x20#8]
        ++ [s.dst, s.cmdSet, s.cmdId] ++ s.inBytes ∧
      t.outBytes = g ++ [(crc16 Config.table16 g).extractLsb' 0 8,
                         (crc16 Config.table16 g).extractLsb' 8 8] ∧
      t.outBytes = frame Config.params ⟨s.dst, s.cmdSet, s.cmdId, s.inBytes⟩ ∧
      s.inBytes.length = s.ilen ∧ t.wp = 18 + s.ilen ∧ t.status = ⟨true, false⟩ ∧
      t.result = some (.bytes t.outBytes)) ∧
  (∀ s : State, 65535 < s.ilen →
    ∃ t, exec .buildFrame s = .next t ∧ t.status = ⟨true, true⟩ ∧
      t.result = some (.error (.payloadTooLarge s.ilen))) ∧
  (∀ (s : State) (d c k : Byte), (s.present (.descriptor d c k none)).descriptor = ⟨d, c, k, []⟩)

/-- The frame of `BUILD_FRAME` (R11, R20, R87, R91, R120, R164): beside the two accumulators, `OUT` below the
frame's length, the counters and `STATUS`, nothing changes; the error leaves even the accumulators and all
of `OUT` alone, and `WP` and `RP` at 0 as the issue set them. (What `ACC8`, `ACC16`, `OUT`, `WP` and `RP` hold
after the error, to which U13 gives no usable value, is the model's reading, notes/assumptions/20.md.) -/
def Obligations.BuildFrameFrame : Prop :=
  ∀ s t : State, exec .buildFrame s = .next t →
    t = { s with acc8 := t.acc8, acc16 := t.acc16, outBuf := t.outBuf
                 wp := if 65535 < s.ilen then 0 else 18 + s.ilen
                 rp := if 65535 < s.ilen then 0 else s.ilen
                 stepReg := t.stepReg, status := t.status, raised := t.raised, todo := [] } ∧
    (∀ a, (if 65535 < s.ilen then 0 else 18 + s.ilen) ≤ a → t.outBuf.read a = s.outBuf.read a) ∧
    (65535 < s.ilen → t.acc8 = s.acc8 ∧ t.acc16 = s.acc16 ∧ t.outBuf = s.outBuf)

/-- R91, R129, R160, R163, R164: an over-long payload raises `PayloadTooLarge(N)` and nothing else happens:
after the issue, the two status bits are set and the error is surfaced, and the operands are as the caller
wrote them. No byte of `IN` needs to be there. (That the error is held with its argument in `raised`, and
what `ACC8`, `ACC16`, `OUT`, `WP`, `RP` and `STEP` hold after it, are the model's readings,
notes/assumptions/12.md, 14.md and 20.md.) -/
def Obligations.OverlongPayloadRaises : Prop :=
  ∀ s : State, 65535 < s.ilen →
    exec .buildFrame s = .next
      { s with wp := 0, rp := 0, stepReg := 0, status := ⟨true, true⟩
               raised := some (.payloadTooLarge s.ilen), todo := [] } ∧
    (∀ t, exec .buildFrame s = .next t → t.result = some (.error (.payloadTooLarge s.ilen))) ∧
    (BlockError.payloadTooLarge s.ilen).code = 1

/-! ### The catalog -/

/-- R140: `IS_DELTA_MODEL` completes on every product code; `PRED` is 1 exactly for 13, 14 and 15, no byte
is written, and nothing but `PRED`, the counters and `STATUS` changes. -/
def Obligations.IsDeltaModelDecides : Prop :=
  decodeOp 0x10#8 = some .isDeltaModel ∧
  ∀ s : State, ∃ t, exec .isDeltaModel s = .next t ∧
    (t.pred = true ↔ s.argPcode = 13 ∨ s.argPcode = 14 ∨ s.argPcode = 15) ∧
    t.result = some (.predicate t.pred) ∧
    t = { s with pred := t.pred, wp := 0, rp := 0, stepReg := 0, status := ⟨true, false⟩
                 raised := none, todo := [] }

/-- R141: `AC_SWITCH` completes in every state and leaves the 25-byte frame of the toggle command. -/
def Obligations.AcSwitchBuildsTheToggleFrame : Prop :=
  decodeOp 0x11#8 = some .acSwitch ∧
  ∀ s : State, ∃ t, exec .acSwitch s = .next t ∧
    t.outBytes = frame Config.params ⟨4#8, 32#8, 66#8,
      [if s.argState then 1#8 else 0#8, 0xFF#8, 0xFF#8, 0xFF#8, 0xFF#8, 0xFF#8, 0xFF#8]⟩ ∧
    t.wp = 25 ∧ t.status = ⟨true, false⟩ ∧ t.result = some (.bytes t.outBytes)

/-- R142: `GET_PD` completes in every state and leaves its 19-byte frame. -/
def Obligations.GetPdBuildsItsFrame : Prop :=
  decodeOp 0x12#8 = some .getPd ∧
  ∀ s : State, ∃ t, exec .getPd s = .next t ∧
    t.outBytes = frame Config.params ⟨2#8, 32#8, 2#8, [0x00#8]⟩ ∧
    t.wp = 19 ∧ t.status = ⟨true, false⟩ ∧ t.result = some (.bytes t.outBytes)

/-- R143: `GET_DC_IN_TYPE` completes in every state; the descriptor is chosen on the Delta predicate, both
bounds exclusive, and `PRED` holds the predicate's value. -/
def Obligations.GetDcInTypeDispatches : Prop :=
  decodeOp 0x13#8 = some .getDcInType ∧
  ∀ s : State, ∃ t, exec .getDcInType s = .next t ∧
    t.outBytes = frame Config.params
      (if 12 < s.argPcode ∧ s.argPcode < 16 then ⟨5#8, 32#8, 82#8, [0x00#8]⟩
       else ⟨4#8, 32#8, 68#8, [0x00#8]⟩) ∧
    t.pred = decide (12 < s.argPcode ∧ s.argPcode < 16) ∧
    t.wp = 19 ∧ t.status = ⟨true, false⟩ ∧ t.result = some (.bytes t.outBytes)

/-- R144: `GET_DC_IN_CURRENT` completes in every state, whatever its five open constants are: the frame of
its descriptor, or the error when `DCCUR_PAYLOAD` is too long; only the destination depends on the
predicate. (That the constants count as supplied is the model's choice, notes/assumptions/4.md.) -/
def Obligations.GetDcInCurrentDispatches : Prop :=
  decodeOp 0x14#8 = some .getDcInCurrent ∧
  ∀ s : State, ∃ t, exec .getDcInCurrent s = .next t ∧
    t.pred = decide (12 < s.argPcode ∧ s.argPcode < 16) ∧
    (Config.dccurPayload.length ≤ 65535 →
      t.outBytes = frame Config.params
        ⟨if 12 < s.argPcode ∧ s.argPcode < 16 then Config.dccurDstDelta else Config.dccurDstOther,
          Config.dccurCmdSet, Config.dccurCmdId, Config.dccurPayload⟩ ∧
      t.wp = 18 + Config.dccurPayload.length ∧ t.status = ⟨true, false⟩ ∧
      t.result = some (.bytes t.outBytes)) ∧
    (65535 < Config.dccurPayload.length →
      t.status = ⟨true, true⟩ ∧
      t.result = some (.error (.payloadTooLarge Config.dccurPayload.length)))

/-- R139, R64: a catalog operation is `BUILD_FRAME` on the state with its descriptor written (and, for the
two queries, `PRED` with it). (That the descriptor is written to `IN`, against the words of R87, is the
model's reading, notes/assumptions/22.md; that `GET_DC_IN_CURRENT` runs is its choice,
notes/assumptions/4.md.) -/
def Obligations.CatalogExpandsToBuildFrame : Prop :=
  ∀ s : State,
    exec .acSwitch s = exec .buildFrame (s.writeDescriptor (acSwitchDescriptor s.argState)) ∧
    exec .getPd s = exec .buildFrame (s.writeDescriptor getPdDescriptor) ∧
    exec .getDcInType s = exec .buildFrame ((s.setPred (isDelta s.argPcode)).writeDescriptor
      (if isDelta s.argPcode then dcInTypeDelta else dcInTypeOther)) ∧
    exec .getDcInCurrent s = exec .buildFrame ((s.setPred (isDelta s.argPcode)).writeDescriptor
      (if isDelta s.argPcode then dcInCurrentDelta Config.params else dcInCurrentOther Config.params))

/-- The frame of the four catalog operations that build a frame (R17, R18, R87, R91, R139, R164): `ARG_STATE`,
`ARG_PCODE` and the caller's moves are kept, `PRED` too by the two without a product code. `DST`,
`CMD_SET`, `CMD_ID`, `IN[0:ILEN]` and `ILEN` hold the descriptor; `IN` keeps every byte at or above its
payload's length, and `OUT` every byte at or above the frame's length (all of `OUT` when the payload is
too long). (The write of `IN`, against the words of R87, is the model's reading, notes/assumptions/22.md;
what `IN` keeps above the payload, its choice, notes/assumptions/8.md; that `GET_DC_IN_CURRENT` runs,
notes/assumptions/4.md; what `WP` and `OUT` hold after the error, its reading, notes/assumptions/20.md.) -/
def Obligations.CatalogOperationsFrame : Prop :=
  ∀ (i : Instr) (s t : State) (d : Descriptor),
    (i = .acSwitch ∧ d = acSwitchDescriptor s.argState) ∨ (i = .getPd ∧ d = getPdDescriptor) ∨
    (i = .getDcInType ∧ d = if isDelta s.argPcode then dcInTypeDelta else dcInTypeOther) ∨
    (i = .getDcInCurrent ∧ d = if isDelta s.argPcode then dcInCurrentDelta Config.params
      else dcInCurrentOther Config.params) →
    exec i s = .next t →
    t.argState = s.argState ∧ t.argPcode = s.argPcode ∧ t.script = s.script ∧ t.todo = [] ∧
    (i = .acSwitch ∨ i = .getPd → t.pred = s.pred) ∧
    t.dst = d.dst ∧ t.cmdSet = d.cmdSet ∧ t.cmdId = d.cmdId ∧ t.ilen = d.payload.length ∧
    t.inBytes = d.payload ∧
    t.wp = (if 65535 < d.payload.length then 0 else 18 + d.payload.length) ∧
    (∀ a, d.payload.length ≤ a → t.inBuf.read a = s.inBuf.read a) ∧
    (∀ a, (if 65535 < d.payload.length then 0 else 18 + d.payload.length) ≤ a →
      t.outBuf.read a = s.outBuf.read a)

/-! ### All operations -/

/-- R8, R183: from every state with its input there, every operation completes, and its result is the
functional model's, a function of the operands and the parameters alone. (That `GET_DC_IN_CURRENT` runs is
the model's choice, notes/assumptions/4.md.) -/
def Obligations.EveryOperationMeetsTheFunctionalModel : Prop :=
  ∀ (i : Instr) (s : State), s.InputListed →
    ∃ t, exec i s = .next t ∧ t.result = some (opResult Config.params i s.operandValues)

/-- R23, R93, R183: the result depends on no register but the operands the operation takes, whatever ran
before. -/
def Obligations.NothingCarriesOver : Prop :=
  ∀ (i : Instr) (s s' t t' : State),
    (match i with
     | .crc8 => s.ilen = s'.ilen ∧ s.inBytes = s'.inBytes
     | .crc16 => s.ilen = s'.ilen ∧ s.inBytes = s'.inBytes
     | .buildFrame => s.ilen = s'.ilen ∧ s.descriptor = s'.descriptor
     | .isDeltaModel => s.argPcode = s'.argPcode
     | .acSwitch => s.argState = s'.argState
     | .getPd => True
     | .getDcInType => s.argPcode = s'.argPcode
     | .getDcInCurrent => s.argPcode = s'.argPcode) →
    exec i s = .next t → exec i s' = .next t' →
    t.result = t'.result ∧ t.wp = t'.wp ∧ t.status = t'.status

/-- R92, R160, R161: an operation that ends has `STATUS.DONE = 1`, and `STATUS.ERR = 1` exactly when a frame
with an over-long payload was asked for; the error carries the offending length (in the model's own field
`raised`, notes/assumptions/12.md). -/
def Obligations.OnlyOverlongPayloadsRaise : Prop :=
  ∀ (i : Instr) (s t : State), exec i s = .next t →
    t.status.done = true ∧ t.busy = false ∧
    (t.status.err = true ↔ (i = .buildFrame ∧ 65535 < s.ilen) ∨
      (i = .getDcInCurrent ∧ 65535 < Config.dccurPayload.length)) ∧
    (t.status.err = true → t.raised = some (.payloadTooLarge t.ilen)) ∧
    (t.status.err = false → t.raised = none)

/-- R18: `PRED` is written by `IS_DELTA_MODEL`, `GET_DC_IN_TYPE` and `GET_DC_IN_CURRENT` with the value of
the predicate, and by nothing else. -/
def Obligations.OnlyThreeOperationsWritePred : Prop :=
  ∀ (i : Instr) (s t : State), exec i s = .next t →
    (i = .isDeltaModel ∨ i = .getDcInType ∨ i = .getDcInCurrent →
      t.pred = decide (12 < s.argPcode ∧ s.argPcode < 16)) ∧
    (¬(i = .isDeltaModel ∨ i = .getDcInType ∨ i = .getDcInCurrent) → t.pred = s.pred)

/-- R22, R60, R161, R167: no operation is refused, and the one fault is that of an operation that would
read a byte of `IN` below `ILEN` that holds no value. (That `GET_DC_IN_CURRENT` is not refused is the
model's choice, notes/assumptions/4.md, and so is the fault of the whole operation, notes/assumptions/9.md.)
-/
def Obligations.OperationsStopOnlyOnMissingInput : Prop :=
  ∀ (i : Instr) (s : State),
    (∃ t, exec i s = .next t) ∨
    ((i = .crc8 ∨ i = .crc16 ∨ i = .buildFrame) ∧
      ∃ a, a < s.ilen ∧ s.inBuf.read a = none ∧ exec i s = .fault (.inputUnlisted a))

/-- R14: `WP` never exceeds 65553 and `RP` never exceeds `ILEN` within an operation: not at the end of a
call, and not after any number of micro-steps of an issued one, whether its input is there or not. (After
the end a caller may present a shorter input, and `RP`, which is dead then, stays.) -/
def Obligations.CountersStayInRange : Prop :=
  (∀ (i : Instr) (s t : State), exec i s = .next t → t.wp ≤ 65553 ∧ t.rp ≤ t.ilen) ∧
  (∀ (p : Params) (i : Instr) (s t : State) (n : Nat), microRun p n (s.start p i) = .next t →
    t.wp ≤ 65553 ∧ t.rp ≤ t.ilen)

/-! ### The step machine -/

/-- R34, R87: a micro-step appends at most one byte, at index `WP`, and changes no other byte of `OUT`. -/
def Obligations.OutIsAppendOnly : Prop :=
  ∀ (p : Params) (s t : State), microStep p s = .next t →
    (t.wp = s.wp ∧ t.outBuf = s.outBuf) ∨
    (∃ v, t.wp = s.wp + 1 ∧ t.outByte? s.wp = some v ∧
      ∀ a, a ≠ s.wp → t.outBuf.read a = s.outBuf.read a)

/-- D1, R88, R92: an operation issued without waiting reaches, by finitely many micro-steps, exactly the
state in which its call ends; the number of micro-steps is bounded by its payload or input length. Where
its call faults, the micro-steps reach the same fault. (Their granularity is the model's,
notes/assumptions/6.md; the fault, notes/assumptions/9.md.) -/
def Obligations.SmallStepsReachTheEnd : Prop :=
  (∀ (i : Instr) (s t : State), exec i s = .next t →
    ∃ n, n ≤ 52 + 2 * t.ilen ∧
      microRun Config.params n (s.start Config.params i) = .next t) ∧
  (∀ (i : Instr) (s : State) (f : Fault), exec i s = .fault f →
    ∃ n, n ≤ 52 + 2 * s.ilen ∧
      microRun Config.params n (s.start Config.params i) = .fault f)

/-- R91, R92, R88: the machine's own steps take an issued operation to the end of its call: the issue, then
one micro-step after another, with no further move of the caller. (Steps and micro-steps are the model's,
notes/assumptions/5.md and 6.md.) -/
def Obligations.IssuedOperationReachesTheEndOfItsCall : Prop :=
  ∀ (s t : State) (op : Byte) (i : Instr), s.busy = false → s.script = [.issue op] →
    decodeOp op = some i → exec i (s.setScript []) = .next t →
    ∃ n, n ≤ 53 + 2 * t.ilen ∧ Sys2Proof.core.run n s = .next t

/-- R59, R93: two steps take a well-formed request, on an idle block, to the functional result of the
operands presented with it, whatever stood in the registers before. (That `GET_DC_IN_CURRENT` runs, and
the two moves of a request, are the model's choices, notes/assumptions/4.md, 5.md and 18.md.) -/
def Obligations.RequestsGiveTheFunctionalResult : Prop :=
  ∀ (r : Request) (s : State) (rest : List CallerMove), r.wellFormed = true → s.busy = false →
    s.script = r.moves ++ rest →
    ∃ t, Sys2Proof.core.run 2 s = .next t ∧ t.result = some (requestResult Config.params r) ∧
      t.busy = false ∧ t.script = rest

/-- R22, R167 c: a micro-step that would read `IN[RP]` at or above `ILEN`, or `OUT[k]` at or above `WP`,
faults; so does one whose byte holds no value; every other micro-step answers a next state. (No operation
issued on input that is there meets such a read; the names of the faults, notes/assumptions/9.md.) -/
def Obligations.MicroStepsFaultOnReadsOutOfRange : Prop :=
  ∀ (p : Params) (s : State) (m : Micro) (rest : List Micro), s.todo = m :: rest →
    (m = .cg8Input ∨ m = .cg16Input ∨ m = .copyInput →
      (s.ilen ≤ s.rp ∨ s.inBuf.read s.rp = none) →
      microStep p s = .fault (.inputUnlisted s.rp)) ∧
    (∀ k, m = .cg8Output k ∨ m = .cg16Output k → (s.wp ≤ k ∨ s.outBuf.read k = none) →
      microStep p s = .fault (.outReadOutOfRange k)) ∧
    (¬((m = .cg8Input ∨ m = .cg16Input ∨ m = .copyInput) ∧
        (s.ilen ≤ s.rp ∨ s.inBuf.read s.rp = none)) →
      ¬(∃ k, (m = .cg8Output k ∨ m = .cg16Output k) ∧ (s.wp ≤ k ∨ s.outBuf.read k = none)) →
      ∃ t, microStep p s = .next t)

/-- R11, R17, R21: only the catalog front end writes operands, and only with a descriptor; every other
micro-step leaves `IN`, `ILEN`, `DST`, `CMD_SET` and `CMD_ID` as they are, and none writes `ARG_STATE` or
`ARG_PCODE`. (That the front end writes `IN`, against the words of R87, is the model's reading,
notes/assumptions/22.md; that `IN` keeps its bytes above the payload, its choice, notes/assumptions/8.md; the
micro-steps, notes/assumptions/6.md.) -/
def Obligations.OnlyTheFrontEndWritesOperands : Prop :=
  ∀ (p : Params) (s t : State), microStep p s = .next t →
    t.argState = s.argState ∧ t.argPcode = s.argPcode ∧
    ((∃ d rest, (s.todo = .writeDescriptor d :: rest ∨
        ∃ a b, s.todo = .chooseDescriptor a b :: rest ∧ d = if s.pred then a else b) ∧
      t.descriptor = d ∧ t.ilen = d.payload.length ∧
      ∀ a, d.payload.length ≤ a → t.inBuf.read a = s.inBuf.read a) ∨
    (t.inBuf = s.inBuf ∧ t.ilen = s.ilen ∧ t.dst = s.dst ∧ t.cmdSet = s.cmdSet ∧ t.cmdId = s.cmdId))
end

