-- ==== Sys2Proof/Laws/Checksum.lean ====
section
/-! SUPPORT. The pure checksum functions: one update per byte, and the identity of the machine's update
with the functional model's. -/

namespace Sys2Proof.Machine

theorem crc8Acc_cons (t : Byte → Byte) (acc b : Byte) (bs : List Byte) :
    crc8Acc t acc (b :: bs) = crc8Acc t (cg8Next t acc b) bs := rfl

theorem crc8Acc_eq_foldl (t : Byte → Byte) (bs : List Byte) (acc : Byte) :
    crc8Acc t acc bs = bs.foldl (cg8Next t) acc := by
  induction bs generalizing acc with
  | nil => rfl
  | cons b bs ih => exact ih _

theorem crc16Acc_cons (t : Byte → Word16) (acc : Word16) (b : Byte) (bs : List Byte) :
    crc16Acc t acc (b :: bs) = crc16Acc t (cg16Next t acc b) bs := rfl

theorem crc16Acc_eq_foldl (t : Byte → Word16) (bs : List Byte) (acc : Word16) :
    crc16Acc t acc bs = bs.foldl (cg16Next t) acc := by
  induction bs generalizing acc with
  | nil => rfl
  | cons b bs ih => exact ih _

end Sys2Proof.Machine
end

