-- ==== Sys2Proof/Laws/Memory.lean ====
section
/-! SUPPORT. The laws of the buffers: read after write, and that every memory operation keeps the
canonical form. -/

namespace Sys2Proof.Machine

theorem Memory.read_write_same (m : Memory) (a : Nat) (v : Byte) : (m.write a v).read a = some v := by
  induction m with
  | nil => simp [Memory.write, Memory.read]
  | cons c m ih =>
    obtain ⟨k, w⟩ := c
    simp only [Memory.write]
    split
    · simp [Memory.read]
    · split
      · simp [Memory.read]
      · rw [Memory.read, if_neg (by omega), ih]

theorem Memory.read_write_other (m : Memory) {a b : Nat} (v : Byte) (h : b ≠ a) :
    (m.write a v).read b = m.read b := by
  induction m with
  | nil => simp [Memory.write, Memory.read, h.symm]
  | cons c m ih =>
    obtain ⟨k, w⟩ := c
    simp only [Memory.write]
    split
    · simp [Memory.read, h.symm]
    · split
      · subst a
        simp [Memory.read, h.symm]
      · simp [Memory.read, ih]

@[simp] theorem Memory.read_write (m : Memory) (a b : Nat) (v : Byte) :
    (m.write a v).read b = if b = a then some v else m.read b := by
  split
  · subst b; exact m.read_write_same a v
  · exact m.read_write_other v ‹_›

/-- What an index reads as after a byte sequence was written from index `a` upwards. -/
theorem Memory.read_writeAll (bs : List Byte) (m : Memory) (a b : Nat) :
    (m.writeAll a bs).read b = if a ≤ b ∧ b < a + bs.length then bs[b - a]? else m.read b := by
  induction bs generalizing m a with
  | nil =>
    rw [Memory.writeAll, if_neg (by simp)]
  | cons v bs ih =>
    rw [Memory.writeAll, ih, List.length_cons]
    by_cases hb : b = a
    · subst b
      rw [if_neg (by omega), if_pos (by omega)]
      simp
    · by_cases hin : a ≤ b ∧ b < a + (bs.length + 1)
      · rw [if_pos (by omega), if_pos hin, show b - a = (b - (a + 1)) + 1 by omega,
          List.getElem?_cons_succ]
      · rw [if_neg (by omega), if_neg hin]
        exact m.read_write_other v hb

theorem Memory.writeAll_append (bs cs : List Byte) (m : Memory) (a : Nat) :
    m.writeAll a (bs ++ cs) = (m.writeAll a bs).writeAll (a + bs.length) cs := by
  induction bs generalizing m a with
  | nil => rfl
  | cons b bs ih =>
    rw [List.cons_append, Memory.writeAll, ih, Memory.writeAll, List.length_cons, Nat.add_assoc,
      Nat.add_comm 1]

/-- Every index of a written byte sequence holds a value. -/
theorem Memory.isSome_read_writeAll (m : Memory) (bs : List Byte) {b : Nat} (h : b < bs.length) :
    ((m.writeAll 0 bs).read b).isSome = true := by
  rw [Memory.read_writeAll, if_pos (by omega)]
  simp [h]

/-- The indices of `m.write a v` are `a` and those of `m`. -/
theorem Memory.mem_write {m : Memory} {a : Nat} {v : Byte} {c : Host.Cell} (h : c ∈ m.write a v) :
    c = (a, v) ∨ c ∈ m := by
  induction m with
  | nil => simpa [Memory.write] using h
  | cons d m ih =>
    obtain ⟨k, w⟩ := d
    simp only [Memory.write] at h
    split at h
    · simpa using h
    · split at h
      · rcases List.mem_cons.1 h with h | h
        · exact .inl h
        · exact .inr (List.mem_cons_of_mem _ h)
      · rcases List.mem_cons.1 h with h | h
        · exact .inr (h ▸ List.mem_cons_self)
        · exact (ih h).imp_right (List.mem_cons_of_mem _)

/-- A write keeps the canonical form. -/
theorem Memory.write_wf {m : Memory} (h : m.wf) (a : Nat) (v : Byte) : (m.write a v).wf := by
  induction m with
  | nil => simp [Memory.write, Memory.wf]
  | cons c m ih =>
    obtain ⟨k, w⟩ := c
    obtain ⟨hk, hm⟩ := List.pairwise_cons.1 h
    simp only [Memory.write]
    split
    · refine List.pairwise_cons.2 ⟨fun d hd => ?_, h⟩
      rcases List.mem_cons.1 hd with hd | hd
      · simpa [hd]
      · exact Nat.lt_trans ‹a < k› (hk d hd)
    · split
      · subst a
        exact List.pairwise_cons.2 ⟨hk, hm⟩
      · refine List.pairwise_cons.2 ⟨fun d hd => ?_, ih hm⟩
        rcases Memory.mem_write hd with hd | hd
        · rw [hd]; show k < a; omega
        · exact hk d hd

/-- Writing a byte sequence keeps the canonical form. -/
theorem Memory.writeAll_wf (bs : List Byte) {m : Memory} (h : m.wf) (a : Nat) :
    (m.writeAll a bs).wf := by
  induction bs generalizing m a with
  | nil => exact h
  | cons b bs ih => exact ih (Memory.write_wf h a b) (a + 1)

end Sys2Proof.Machine
end

