-- ==== Sys2Proof/Laws/State.lean ====
section
/-! SUPPORT. One lemma per field of `State` per update, each true by `rfl`, so that no later proof
unfolds a record update. -/

namespace Sys2Proof.Machine

variable (s : State)

/-! ### `emit` -/

@[simp] theorem State.emit_dst (v : Byte) : (s.emit v).dst = s.dst := rfl
@[simp] theorem State.emit_cmdSet (v : Byte) : (s.emit v).cmdSet = s.cmdSet := rfl
@[simp] theorem State.emit_cmdId (v : Byte) : (s.emit v).cmdId = s.cmdId := rfl
@[simp] theorem State.emit_acc8 (v : Byte) : (s.emit v).acc8 = s.acc8 := rfl
@[simp] theorem State.emit_acc16 (v : Byte) : (s.emit v).acc16 = s.acc16 := rfl
@[simp] theorem State.emit_argState (v : Byte) : (s.emit v).argState = s.argState := rfl
@[simp] theorem State.emit_argPcode (v : Byte) : (s.emit v).argPcode = s.argPcode := rfl
@[simp] theorem State.emit_pred (v : Byte) : (s.emit v).pred = s.pred := rfl
@[simp] theorem State.emit_inBuf (v : Byte) : (s.emit v).inBuf = s.inBuf := rfl
@[simp] theorem State.emit_ilen (v : Byte) : (s.emit v).ilen = s.ilen := rfl
@[simp] theorem State.emit_outBuf (v : Byte) : (s.emit v).outBuf = s.outBuf.write s.wp v := rfl
@[simp] theorem State.emit_wp (v : Byte) : (s.emit v).wp = s.wp + 1 := rfl
@[simp] theorem State.emit_rp (v : Byte) : (s.emit v).rp = s.rp := rfl
@[simp] theorem State.emit_stepReg (v : Byte) : (s.emit v).stepReg = s.stepReg := rfl
@[simp] theorem State.emit_status (v : Byte) : (s.emit v).status = s.status := rfl
@[simp] theorem State.emit_raised (v : Byte) : (s.emit v).raised = s.raised := rfl
@[simp] theorem State.emit_todo (v : Byte) : (s.emit v).todo = s.todo := rfl
@[simp] theorem State.emit_script (v : Byte) : (s.emit v).script = s.script := rfl

/-! ### `setAcc8` -/

@[simp] theorem State.setAcc8_dst (v : Byte) : (s.setAcc8 v).dst = s.dst := rfl
@[simp] theorem State.setAcc8_cmdSet (v : Byte) : (s.setAcc8 v).cmdSet = s.cmdSet := rfl
@[simp] theorem State.setAcc8_cmdId (v : Byte) : (s.setAcc8 v).cmdId = s.cmdId := rfl
@[simp] theorem State.setAcc8_acc8 (v : Byte) : (s.setAcc8 v).acc8 = v := rfl
@[simp] theorem State.setAcc8_acc16 (v : Byte) : (s.setAcc8 v).acc16 = s.acc16 := rfl
@[simp] theorem State.setAcc8_argState (v : Byte) : (s.setAcc8 v).argState = s.argState := rfl
@[simp] theorem State.setAcc8_argPcode (v : Byte) : (s.setAcc8 v).argPcode = s.argPcode := rfl
@[simp] theorem State.setAcc8_pred (v : Byte) : (s.setAcc8 v).pred = s.pred := rfl
@[simp] theorem State.setAcc8_inBuf (v : Byte) : (s.setAcc8 v).inBuf = s.inBuf := rfl
@[simp] theorem State.setAcc8_ilen (v : Byte) : (s.setAcc8 v).ilen = s.ilen := rfl
@[simp] theorem State.setAcc8_outBuf (v : Byte) : (s.setAcc8 v).outBuf = s.outBuf := rfl
@[simp] theorem State.setAcc8_wp (v : Byte) : (s.setAcc8 v).wp = s.wp := rfl
@[simp] theorem State.setAcc8_rp (v : Byte) : (s.setAcc8 v).rp = s.rp := rfl
@[simp] theorem State.setAcc8_stepReg (v : Byte) : (s.setAcc8 v).stepReg = s.stepReg := rfl
@[simp] theorem State.setAcc8_status (v : Byte) : (s.setAcc8 v).status = s.status := rfl
@[simp] theorem State.setAcc8_raised (v : Byte) : (s.setAcc8 v).raised = s.raised := rfl
@[simp] theorem State.setAcc8_todo (v : Byte) : (s.setAcc8 v).todo = s.todo := rfl
@[simp] theorem State.setAcc8_script (v : Byte) : (s.setAcc8 v).script = s.script := rfl

/-! ### `setAcc16` -/

@[simp] theorem State.setAcc16_dst (v : Word16) : (s.setAcc16 v).dst = s.dst := rfl
@[simp] theorem State.setAcc16_cmdSet (v : Word16) : (s.setAcc16 v).cmdSet = s.cmdSet := rfl
@[simp] theorem State.setAcc16_cmdId (v : Word16) : (s.setAcc16 v).cmdId = s.cmdId := rfl
@[simp] theorem State.setAcc16_acc8 (v : Word16) : (s.setAcc16 v).acc8 = s.acc8 := rfl
@[simp] theorem State.setAcc16_acc16 (v : Word16) : (s.setAcc16 v).acc16 = v := rfl
@[simp] theorem State.setAcc16_argState (v : Word16) : (s.setAcc16 v).argState = s.argState := rfl
@[simp] theorem State.setAcc16_argPcode (v : Word16) : (s.setAcc16 v).argPcode = s.argPcode := rfl
@[simp] theorem State.setAcc16_pred (v : Word16) : (s.setAcc16 v).pred = s.pred := rfl
@[simp] theorem State.setAcc16_inBuf (v : Word16) : (s.setAcc16 v).inBuf = s.inBuf := rfl
@[simp] theorem State.setAcc16_ilen (v : Word16) : (s.setAcc16 v).ilen = s.ilen := rfl
@[simp] theorem State.setAcc16_outBuf (v : Word16) : (s.setAcc16 v).outBuf = s.outBuf := rfl
@[simp] theorem State.setAcc16_wp (v : Word16) : (s.setAcc16 v).wp = s.wp := rfl
@[simp] theorem State.setAcc16_rp (v : Word16) : (s.setAcc16 v).rp = s.rp := rfl
@[simp] theorem State.setAcc16_stepReg (v : Word16) : (s.setAcc16 v).stepReg = s.stepReg := rfl
@[simp] theorem State.setAcc16_status (v : Word16) : (s.setAcc16 v).status = s.status := rfl
@[simp] theorem State.setAcc16_raised (v : Word16) : (s.setAcc16 v).raised = s.raised := rfl
@[simp] theorem State.setAcc16_todo (v : Word16) : (s.setAcc16 v).todo = s.todo := rfl
@[simp] theorem State.setAcc16_script (v : Word16) : (s.setAcc16 v).script = s.script := rfl

/-! ### `setPred` -/

@[simp] theorem State.setPred_dst (b : Bool) : (s.setPred b).dst = s.dst := rfl
@[simp] theorem State.setPred_cmdSet (b : Bool) : (s.setPred b).cmdSet = s.cmdSet := rfl
@[simp] theorem State.setPred_cmdId (b : Bool) : (s.setPred b).cmdId = s.cmdId := rfl
@[simp] theorem State.setPred_acc8 (b : Bool) : (s.setPred b).acc8 = s.acc8 := rfl
@[simp] theorem State.setPred_acc16 (b : Bool) : (s.setPred b).acc16 = s.acc16 := rfl
@[simp] theorem State.setPred_argState (b : Bool) : (s.setPred b).argState = s.argState := rfl
@[simp] theorem State.setPred_argPcode (b : Bool) : (s.setPred b).argPcode = s.argPcode := rfl
@[simp] theorem State.setPred_pred (b : Bool) : (s.setPred b).pred = b := rfl
@[simp] theorem State.setPred_inBuf (b : Bool) : (s.setPred b).inBuf = s.inBuf := rfl
@[simp] theorem State.setPred_ilen (b : Bool) : (s.setPred b).ilen = s.ilen := rfl
@[simp] theorem State.setPred_outBuf (b : Bool) : (s.setPred b).outBuf = s.outBuf := rfl
@[simp] theorem State.setPred_wp (b : Bool) : (s.setPred b).wp = s.wp := rfl
@[simp] theorem State.setPred_rp (b : Bool) : (s.setPred b).rp = s.rp := rfl
@[simp] theorem State.setPred_stepReg (b : Bool) : (s.setPred b).stepReg = s.stepReg := rfl
@[simp] theorem State.setPred_status (b : Bool) : (s.setPred b).status = s.status := rfl
@[simp] theorem State.setPred_raised (b : Bool) : (s.setPred b).raised = s.raised := rfl
@[simp] theorem State.setPred_todo (b : Bool) : (s.setPred b).todo = s.todo := rfl
@[simp] theorem State.setPred_script (b : Bool) : (s.setPred b).script = s.script := rfl

/-! ### `setStep` -/

@[simp] theorem State.setStep_dst (k : Fin 9) : (s.setStep k).dst = s.dst := rfl
@[simp] theorem State.setStep_cmdSet (k : Fin 9) : (s.setStep k).cmdSet = s.cmdSet := rfl
@[simp] theorem State.setStep_cmdId (k : Fin 9) : (s.setStep k).cmdId = s.cmdId := rfl
@[simp] theorem State.setStep_acc8 (k : Fin 9) : (s.setStep k).acc8 = s.acc8 := rfl
@[simp] theorem State.setStep_acc16 (k : Fin 9) : (s.setStep k).acc16 = s.acc16 := rfl
@[simp] theorem State.setStep_argState (k : Fin 9) : (s.setStep k).argState = s.argState := rfl
@[simp] theorem State.setStep_argPcode (k : Fin 9) : (s.setStep k).argPcode = s.argPcode := rfl
@[simp] theorem State.setStep_pred (k : Fin 9) : (s.setStep k).pred = s.pred := rfl
@[simp] theorem State.setStep_inBuf (k : Fin 9) : (s.setStep k).inBuf = s.inBuf := rfl
@[simp] theorem State.setStep_ilen (k : Fin 9) : (s.setStep k).ilen = s.ilen := rfl
@[simp] theorem State.setStep_outBuf (k : Fin 9) : (s.setStep k).outBuf = s.outBuf := rfl
@[simp] theorem State.setStep_wp (k : Fin 9) : (s.setStep k).wp = s.wp := rfl
@[simp] theorem State.setStep_rp (k : Fin 9) : (s.setStep k).rp = s.rp := rfl
@[simp] theorem State.setStep_stepReg (k : Fin 9) : (s.setStep k).stepReg = k := rfl
@[simp] theorem State.setStep_status (k : Fin 9) : (s.setStep k).status = s.status := rfl
@[simp] theorem State.setStep_raised (k : Fin 9) : (s.setStep k).raised = s.raised := rfl
@[simp] theorem State.setStep_todo (k : Fin 9) : (s.setStep k).todo = s.todo := rfl
@[simp] theorem State.setStep_script (k : Fin 9) : (s.setStep k).script = s.script := rfl

/-! ### `advanceRp` -/

@[simp] theorem State.advanceRp_dst : (s.advanceRp).dst = s.dst := rfl
@[simp] theorem State.advanceRp_cmdSet : (s.advanceRp).cmdSet = s.cmdSet := rfl
@[simp] theorem State.advanceRp_cmdId : (s.advanceRp).cmdId = s.cmdId := rfl
@[simp] theorem State.advanceRp_acc8 : (s.advanceRp).acc8 = s.acc8 := rfl
@[simp] theorem State.advanceRp_acc16 : (s.advanceRp).acc16 = s.acc16 := rfl
@[simp] theorem State.advanceRp_argState : (s.advanceRp).argState = s.argState := rfl
@[simp] theorem State.advanceRp_argPcode : (s.advanceRp).argPcode = s.argPcode := rfl
@[simp] theorem State.advanceRp_pred : (s.advanceRp).pred = s.pred := rfl
@[simp] theorem State.advanceRp_inBuf : (s.advanceRp).inBuf = s.inBuf := rfl
@[simp] theorem State.advanceRp_ilen : (s.advanceRp).ilen = s.ilen := rfl
@[simp] theorem State.advanceRp_outBuf : (s.advanceRp).outBuf = s.outBuf := rfl
@[simp] theorem State.advanceRp_wp : (s.advanceRp).wp = s.wp := rfl
@[simp] theorem State.advanceRp_rp : (s.advanceRp).rp = s.rp + 1 := rfl
@[simp] theorem State.advanceRp_stepReg : (s.advanceRp).stepReg = s.stepReg := rfl
@[simp] theorem State.advanceRp_status : (s.advanceRp).status = s.status := rfl
@[simp] theorem State.advanceRp_raised : (s.advanceRp).raised = s.raised := rfl
@[simp] theorem State.advanceRp_todo : (s.advanceRp).todo = s.todo := rfl
@[simp] theorem State.advanceRp_script : (s.advanceRp).script = s.script := rfl

/-! ### `setTodo` -/

@[simp] theorem State.setTodo_dst (l : List Micro) : (s.setTodo l).dst = s.dst := rfl
@[simp] theorem State.setTodo_cmdSet (l : List Micro) : (s.setTodo l).cmdSet = s.cmdSet := rfl
@[simp] theorem State.setTodo_cmdId (l : List Micro) : (s.setTodo l).cmdId = s.cmdId := rfl
@[simp] theorem State.setTodo_acc8 (l : List Micro) : (s.setTodo l).acc8 = s.acc8 := rfl
@[simp] theorem State.setTodo_acc16 (l : List Micro) : (s.setTodo l).acc16 = s.acc16 := rfl
@[simp] theorem State.setTodo_argState (l : List Micro) : (s.setTodo l).argState = s.argState := rfl
@[simp] theorem State.setTodo_argPcode (l : List Micro) : (s.setTodo l).argPcode = s.argPcode := rfl
@[simp] theorem State.setTodo_pred (l : List Micro) : (s.setTodo l).pred = s.pred := rfl
@[simp] theorem State.setTodo_inBuf (l : List Micro) : (s.setTodo l).inBuf = s.inBuf := rfl
@[simp] theorem State.setTodo_ilen (l : List Micro) : (s.setTodo l).ilen = s.ilen := rfl
@[simp] theorem State.setTodo_outBuf (l : List Micro) : (s.setTodo l).outBuf = s.outBuf := rfl
@[simp] theorem State.setTodo_wp (l : List Micro) : (s.setTodo l).wp = s.wp := rfl
@[simp] theorem State.setTodo_rp (l : List Micro) : (s.setTodo l).rp = s.rp := rfl
@[simp] theorem State.setTodo_stepReg (l : List Micro) : (s.setTodo l).stepReg = s.stepReg := rfl
@[simp] theorem State.setTodo_status (l : List Micro) : (s.setTodo l).status = s.status := rfl
@[simp] theorem State.setTodo_raised (l : List Micro) : (s.setTodo l).raised = s.raised := rfl
@[simp] theorem State.setTodo_todo (l : List Micro) : (s.setTodo l).todo = l := rfl
@[simp] theorem State.setTodo_script (l : List Micro) : (s.setTodo l).script = s.script := rfl

/-! ### `setScript` -/

@[simp] theorem State.setScript_dst (l : List CallerMove) : (s.setScript l).dst = s.dst := rfl
@[simp] theorem State.setScript_cmdSet (l : List CallerMove) : (s.setScript l).cmdSet = s.cmdSet := rfl
@[simp] theorem State.setScript_cmdId (l : List CallerMove) : (s.setScript l).cmdId = s.cmdId := rfl
@[simp] theorem State.setScript_acc8 (l : List CallerMove) : (s.setScript l).acc8 = s.acc8 := rfl
@[simp] theorem State.setScript_acc16 (l : List CallerMove) : (s.setScript l).acc16 = s.acc16 := rfl
@[simp] theorem State.setScript_argState (l : List CallerMove) : (s.setScript l).argState = s.argState := rfl
@[simp] theorem State.setScript_argPcode (l : List CallerMove) : (s.setScript l).argPcode = s.argPcode := rfl
@[simp] theorem State.setScript_pred (l : List CallerMove) : (s.setScript l).pred = s.pred := rfl
@[simp] theorem State.setScript_inBuf (l : List CallerMove) : (s.setScript l).inBuf = s.inBuf := rfl
@[simp] theorem State.setScript_ilen (l : List CallerMove) : (s.setScript l).ilen = s.ilen := rfl
@[simp] theorem State.setScript_outBuf (l : List CallerMove) : (s.setScript l).outBuf = s.outBuf := rfl
@[simp] theorem State.setScript_wp (l : List CallerMove) : (s.setScript l).wp = s.wp := rfl
@[simp] theorem State.setScript_rp (l : List CallerMove) : (s.setScript l).rp = s.rp := rfl
@[simp] theorem State.setScript_stepReg (l : List CallerMove) : (s.setScript l).stepReg = s.stepReg := rfl
@[simp] theorem State.setScript_status (l : List CallerMove) : (s.setScript l).status = s.status := rfl
@[simp] theorem State.setScript_raised (l : List CallerMove) : (s.setScript l).raised = s.raised := rfl
@[simp] theorem State.setScript_todo (l : List CallerMove) : (s.setScript l).todo = s.todo := rfl
@[simp] theorem State.setScript_script (l : List CallerMove) : (s.setScript l).script = l := rfl

/-! ### `raisePayloadTooLarge` -/

@[simp] theorem State.raisePayloadTooLarge_dst (n : Nat) : (s.raisePayloadTooLarge n).dst = s.dst := rfl
@[simp] theorem State.raisePayloadTooLarge_cmdSet (n : Nat) : (s.raisePayloadTooLarge n).cmdSet = s.cmdSet := rfl
@[simp] theorem State.raisePayloadTooLarge_cmdId (n : Nat) : (s.raisePayloadTooLarge n).cmdId = s.cmdId := rfl
@[simp] theorem State.raisePayloadTooLarge_acc8 (n : Nat) : (s.raisePayloadTooLarge n).acc8 = s.acc8 := rfl
@[simp] theorem State.raisePayloadTooLarge_acc16 (n : Nat) : (s.raisePayloadTooLarge n).acc16 = s.acc16 := rfl
@[simp] theorem State.raisePayloadTooLarge_argState (n : Nat) : (s.raisePayloadTooLarge n).argState = s.argState := rfl
@[simp] theorem State.raisePayloadTooLarge_argPcode (n : Nat) : (s.raisePayloadTooLarge n).argPcode = s.argPcode := rfl
@[simp] theorem State.raisePayloadTooLarge_pred (n : Nat) : (s.raisePayloadTooLarge n).pred = s.pred := rfl
@[simp] theorem State.raisePayloadTooLarge_inBuf (n : Nat) : (s.raisePayloadTooLarge n).inBuf = s.inBuf := rfl
@[simp] theorem State.raisePayloadTooLarge_ilen (n : Nat) : (s.raisePayloadTooLarge n).ilen = s.ilen := rfl
@[simp] theorem State.raisePayloadTooLarge_outBuf (n : Nat) : (s.raisePayloadTooLarge n).outBuf = s.outBuf := rfl
@[simp] theorem State.raisePayloadTooLarge_wp (n : Nat) : (s.raisePayloadTooLarge n).wp = s.wp := rfl
@[simp] theorem State.raisePayloadTooLarge_rp (n : Nat) : (s.raisePayloadTooLarge n).rp = s.rp := rfl
@[simp] theorem State.raisePayloadTooLarge_stepReg (n : Nat) : (s.raisePayloadTooLarge n).stepReg = s.stepReg := rfl
@[simp] theorem State.raisePayloadTooLarge_status (n : Nat) : (s.raisePayloadTooLarge n).status = ⟨true, true⟩ := rfl
@[simp] theorem State.raisePayloadTooLarge_raised (n : Nat) : (s.raisePayloadTooLarge n).raised = some (.payloadTooLarge n) := rfl
@[simp] theorem State.raisePayloadTooLarge_todo (n : Nat) : (s.raisePayloadTooLarge n).todo = [] := rfl
@[simp] theorem State.raisePayloadTooLarge_script (n : Nat) : (s.raisePayloadTooLarge n).script = s.script := rfl

/-! ### `issue` -/

@[simp] theorem State.issue_dst : (s.issue).dst = s.dst := rfl
@[simp] theorem State.issue_cmdSet : (s.issue).cmdSet = s.cmdSet := rfl
@[simp] theorem State.issue_cmdId : (s.issue).cmdId = s.cmdId := rfl
@[simp] theorem State.issue_acc8 : (s.issue).acc8 = s.acc8 := rfl
@[simp] theorem State.issue_acc16 : (s.issue).acc16 = s.acc16 := rfl
@[simp] theorem State.issue_argState : (s.issue).argState = s.argState := rfl
@[simp] theorem State.issue_argPcode : (s.issue).argPcode = s.argPcode := rfl
@[simp] theorem State.issue_pred : (s.issue).pred = s.pred := rfl
@[simp] theorem State.issue_inBuf : (s.issue).inBuf = s.inBuf := rfl
@[simp] theorem State.issue_ilen : (s.issue).ilen = s.ilen := rfl
@[simp] theorem State.issue_outBuf : (s.issue).outBuf = s.outBuf := rfl
@[simp] theorem State.issue_wp : (s.issue).wp = 0 := rfl
@[simp] theorem State.issue_rp : (s.issue).rp = 0 := rfl
@[simp] theorem State.issue_stepReg : (s.issue).stepReg = 0 := rfl
@[simp] theorem State.issue_status : (s.issue).status = ⟨false, false⟩ := rfl
@[simp] theorem State.issue_raised : (s.issue).raised = none := rfl
@[simp] theorem State.issue_todo : (s.issue).todo = s.todo := rfl
@[simp] theorem State.issue_script : (s.issue).script = s.script := rfl

/-! ### `finish` -/

@[simp] theorem State.finish_dst : (s.finish).dst = s.dst := rfl
@[simp] theorem State.finish_cmdSet : (s.finish).cmdSet = s.cmdSet := rfl
@[simp] theorem State.finish_cmdId : (s.finish).cmdId = s.cmdId := rfl
@[simp] theorem State.finish_acc8 : (s.finish).acc8 = s.acc8 := rfl
@[simp] theorem State.finish_acc16 : (s.finish).acc16 = s.acc16 := rfl
@[simp] theorem State.finish_argState : (s.finish).argState = s.argState := rfl
@[simp] theorem State.finish_argPcode : (s.finish).argPcode = s.argPcode := rfl
@[simp] theorem State.finish_pred : (s.finish).pred = s.pred := rfl
@[simp] theorem State.finish_inBuf : (s.finish).inBuf = s.inBuf := rfl
@[simp] theorem State.finish_ilen : (s.finish).ilen = s.ilen := rfl
@[simp] theorem State.finish_outBuf : (s.finish).outBuf = s.outBuf := rfl
@[simp] theorem State.finish_wp : (s.finish).wp = s.wp := rfl
@[simp] theorem State.finish_rp : (s.finish).rp = s.rp := rfl
@[simp] theorem State.finish_stepReg : (s.finish).stepReg = s.stepReg := rfl
@[simp] theorem State.finish_status : (s.finish).status = ⟨true, s.status.err⟩ := rfl
@[simp] theorem State.finish_raised : (s.finish).raised = s.raised := rfl
@[simp] theorem State.finish_todo : (s.finish).todo = [] := rfl
@[simp] theorem State.finish_script : (s.finish).script = s.script := rfl

/-! ### `writeInput` -/

@[simp] theorem State.writeInput_dst (q : List Byte) : (s.writeInput q).dst = s.dst := rfl
@[simp] theorem State.writeInput_cmdSet (q : List Byte) : (s.writeInput q).cmdSet = s.cmdSet := rfl
@[simp] theorem State.writeInput_cmdId (q : List Byte) : (s.writeInput q).cmdId = s.cmdId := rfl
@[simp] theorem State.writeInput_acc8 (q : List Byte) : (s.writeInput q).acc8 = s.acc8 := rfl
@[simp] theorem State.writeInput_acc16 (q : List Byte) : (s.writeInput q).acc16 = s.acc16 := rfl
@[simp] theorem State.writeInput_argState (q : List Byte) : (s.writeInput q).argState = s.argState := rfl
@[simp] theorem State.writeInput_argPcode (q : List Byte) : (s.writeInput q).argPcode = s.argPcode := rfl
@[simp] theorem State.writeInput_pred (q : List Byte) : (s.writeInput q).pred = s.pred := rfl
@[simp] theorem State.writeInput_inBuf (q : List Byte) : (s.writeInput q).inBuf = s.inBuf.writeAll 0 q := rfl
@[simp] theorem State.writeInput_ilen (q : List Byte) : (s.writeInput q).ilen = q.length := rfl
@[simp] theorem State.writeInput_outBuf (q : List Byte) : (s.writeInput q).outBuf = s.outBuf := rfl
@[simp] theorem State.writeInput_wp (q : List Byte) : (s.writeInput q).wp = s.wp := rfl
@[simp] theorem State.writeInput_rp (q : List Byte) : (s.writeInput q).rp = s.rp := rfl
@[simp] theorem State.writeInput_stepReg (q : List Byte) : (s.writeInput q).stepReg = s.stepReg := rfl
@[simp] theorem State.writeInput_status (q : List Byte) : (s.writeInput q).status = s.status := rfl
@[simp] theorem State.writeInput_raised (q : List Byte) : (s.writeInput q).raised = s.raised := rfl
@[simp] theorem State.writeInput_todo (q : List Byte) : (s.writeInput q).todo = s.todo := rfl
@[simp] theorem State.writeInput_script (q : List Byte) : (s.writeInput q).script = s.script := rfl

/-! ### `writeDescriptor` -/

@[simp] theorem State.writeDescriptor_dst (d : Descriptor) : (s.writeDescriptor d).dst = d.dst := rfl
@[simp] theorem State.writeDescriptor_cmdSet (d : Descriptor) : (s.writeDescriptor d).cmdSet = d.cmdSet := rfl
@[simp] theorem State.writeDescriptor_cmdId (d : Descriptor) : (s.writeDescriptor d).cmdId = d.cmdId := rfl
@[simp] theorem State.writeDescriptor_acc8 (d : Descriptor) : (s.writeDescriptor d).acc8 = s.acc8 := rfl
@[simp] theorem State.writeDescriptor_acc16 (d : Descriptor) : (s.writeDescriptor d).acc16 = s.acc16 := rfl
@[simp] theorem State.writeDescriptor_argState (d : Descriptor) : (s.writeDescriptor d).argState = s.argState := rfl
@[simp] theorem State.writeDescriptor_argPcode (d : Descriptor) : (s.writeDescriptor d).argPcode = s.argPcode := rfl
@[simp] theorem State.writeDescriptor_pred (d : Descriptor) : (s.writeDescriptor d).pred = s.pred := rfl
@[simp] theorem State.writeDescriptor_inBuf (d : Descriptor) : (s.writeDescriptor d).inBuf = s.inBuf.writeAll 0 d.payload := rfl
@[simp] theorem State.writeDescriptor_ilen (d : Descriptor) : (s.writeDescriptor d).ilen = d.payload.length := rfl
@[simp] theorem State.writeDescriptor_outBuf (d : Descriptor) : (s.writeDescriptor d).outBuf = s.outBuf := rfl
@[simp] theorem State.writeDescriptor_wp (d : Descriptor) : (s.writeDescriptor d).wp = s.wp := rfl
@[simp] theorem State.writeDescriptor_rp (d : Descriptor) : (s.writeDescriptor d).rp = s.rp := rfl
@[simp] theorem State.writeDescriptor_stepReg (d : Descriptor) : (s.writeDescriptor d).stepReg = s.stepReg := rfl
@[simp] theorem State.writeDescriptor_status (d : Descriptor) : (s.writeDescriptor d).status = s.status := rfl
@[simp] theorem State.writeDescriptor_raised (d : Descriptor) : (s.writeDescriptor d).raised = s.raised := rfl
@[simp] theorem State.writeDescriptor_todo (d : Descriptor) : (s.writeDescriptor d).todo = s.todo := rfl
@[simp] theorem State.writeDescriptor_script (d : Descriptor) : (s.writeDescriptor d).script = s.script := rfl

end Sys2Proof.Machine
end

