-- ==== Sys2Proof/Laws/Buffers.lean ====
section
/-! SUPPORT. What the shared operations over `IN` and `OUT` can do, said once: the append, the two read
loops, and the admission of an operation that reads its input. -/

namespace Sys2Proof.Machine

/-! ### The append -/

theorem State.outByte?_emit (s : State) (v : Byte) (a : Nat) :
    (s.emit v).outByte? a = if a = s.wp then some v else s.outByte? a := by
  unfold State.outByte?
  by_cases h : a = s.wp
  · simp [h]
  · by_cases h' : a < s.wp
    · simp [h, h', show a < s.wp + 1 by omega]
    · simp [h, h', show ¬a < s.wp + 1 by omega]

/-- `emit` appends one byte to `OUT[0:WP]`. -/
@[simp] theorem State.outBytes_emit (s : State) (v : Byte) :
    (s.emit v).outBytes = s.outBytes ++ [v] := by
  unfold State.outBytes
  rw [State.emit_wp, List.range_succ, List.filterMap_append]
  congr 1
  · refine List.filterMap_congr fun a ha => ?_
    rw [State.outByte?_emit, if_neg (Nat.ne_of_lt (List.mem_range.1 ha))]
  · simp [State.outByte?_emit]

theorem State.emitSeq_append (s : State) (bs cs : List Byte) :
    s.emitSeq (bs ++ cs) = (s.emitSeq bs).emitSeq cs := by
  induction bs generalizing s with
  | nil => rfl
  | cons b bs ih => exact ih (s.emit b)

@[simp] theorem State.outBytes_emitSeq (s : State) (bs : List Byte) :
    (s.emitSeq bs).outBytes = s.outBytes ++ bs := by
  induction bs generalizing s with
  | nil => simp [State.emitSeq]
  | cons b bs ih => simp [State.emitSeq, ih]

@[simp] theorem State.wp_emitSeq (s : State) (bs : List Byte) :
    (s.emitSeq bs).wp = s.wp + bs.length := by
  induction bs generalizing s with
  | nil => rfl
  | cons b bs ih => simp [State.emitSeq, ih]; omega

/-- `emit_seq` in closed form: it writes `OUT` from `WP` upwards and grows `WP`, and nothing else. -/
theorem State.emitSeq_eq_writeAll (s : State) (bs : List Byte) :
    s.emitSeq bs = { s with outBuf := s.outBuf.writeAll s.wp bs, wp := s.wp + bs.length } := by
  induction bs generalizing s with
  | nil => rfl
  | cons b bs ih =>
    rw [State.emitSeq, ih, State.emit_wp, State.emit_outBuf, List.length_cons, Nat.add_assoc,
      Nat.add_comm 1]
    rfl

/-- `emit_seq` leaves every byte of `OUT` outside the appended ones as it was. -/
theorem State.read_emitSeq (s : State) (bs : List Byte) (a : Nat)
    (h : a < s.wp ∨ s.wp + bs.length ≤ a) : (s.emitSeq bs).outBuf.read a = s.outBuf.read a := by
  induction bs generalizing s with
  | nil => rfl
  | cons b bs ih =>
    rw [List.length_cons] at h
    rw [State.emitSeq, ih (s.emit b) (by rw [State.emit_wp]; omega), State.emit_outBuf,
      Memory.read_write, if_neg (by omega)]

/-! ### The input -/

theorem State.InputListed.inByte {s : State} (h : s.InputListed) {a : Nat} (ha : a < s.ilen) :
    ∃ b, s.inByte? a = some b := by
  simpa [State.inByte?, ha, Option.isSome_iff_exists] using h a ha

theorem State.InputListed.length_inBytes {s : State} (h : s.InputListed) :
    s.inBytes.length = s.ilen := by
  have hall : ∀ a ∈ List.range s.ilen, (s.inByte? a).isSome = true := fun a ha => by
    obtain ⟨b, hb⟩ := h.inByte (List.mem_range.1 ha)
    rw [hb, Option.isSome_some]
  rw [State.inBytes, List.length_filterMap_eq_countP, List.countP_eq_length.2 hall, List.length_range]

/-- `missingInput` finds nothing exactly when the input is there. -/
theorem State.missingInput_eq_none_iff (s : State) : s.missingInput = none ↔ s.InputListed := by
  simp [State.missingInput, State.InputListed, Option.isSome_iff_ne_none]

theorem whenReadable_none (t : State) : whenReadable none t = .next t := rfl

/-- An operation that reads its input completes when the input is there. -/
theorem whenReadable_missingInput {s : State} (h : s.InputListed) (t : State) :
    whenReadable s.missingInput t = .next t := by
  rw [s.missingInput_eq_none_iff.2 h]
  rfl

theorem State.missingPayload_eq_none {s : State} (h : s.InputListed ∨ maxPayload < s.ilen) :
    s.missingPayload = none := by
  unfold State.missingPayload
  split
  · rfl
  · exact s.missingInput_eq_none_iff.2 (h.resolve_right ‹_›)

/-- An input just written is there, and is what was written. -/
theorem State.inputListed_writeDescriptor (s : State) (d : Descriptor) :
    (s.writeDescriptor d).InputListed :=
  fun _ ha => Memory.isSome_read_writeAll s.inBuf d.payload ha

theorem State.inputListed_writeInput (s : State) (q : List Byte) : (s.writeInput q).InputListed :=
  fun _ ha => Memory.isSome_read_writeAll s.inBuf q ha

theorem filterMap_getElem?_range (bs : List Byte) :
    (List.range bs.length).filterMap (fun a => bs[a]?) = bs := by
  induction bs with
  | nil => rfl
  | cons b bs ih =>
    rw [List.length_cons, List.range_succ_eq_map, List.filterMap_cons]
    simp only [List.getElem?_cons_zero, List.filterMap_map]
    exact congrArg (b :: ·) ih

theorem State.inBytes_of_writeAll (s : State) (m : Memory) (q : List Byte)
    (hb : s.inBuf = m.writeAll 0 q) (hl : s.ilen = q.length) : s.inBytes = q := by
  rw [State.inBytes, hl]
  refine Eq.trans (List.filterMap_congr fun a ha => ?_) (filterMap_getElem?_range q)
  have ha' : a < q.length := List.mem_range.1 ha
  rw [State.inByte?, hl, if_pos ha', hb, Memory.read_writeAll, if_pos (by omega), Nat.sub_zero]

/-- `OUT[0:WP]` of a state whose buffer was written from index 0. -/
theorem State.outBytes_of_writeAll (s : State) (m : Memory) (bs : List Byte)
    (hb : s.outBuf = m.writeAll 0 bs) (hw : s.wp = bs.length) : s.outBytes = bs := by
  rw [State.outBytes, hw]
  refine Eq.trans (List.filterMap_congr fun a ha => ?_) (filterMap_getElem?_range bs)
  have ha' : a < bs.length := List.mem_range.1 ha
  rw [State.outByte?, hw, if_pos ha', hb, Memory.read_writeAll, if_pos (by omega), Nat.sub_zero]

@[simp] theorem State.inBytes_writeDescriptor (s : State) (d : Descriptor) :
    (s.writeDescriptor d).inBytes = d.payload :=
  State.inBytes_of_writeAll _ s.inBuf d.payload rfl rfl

@[simp] theorem State.inBytes_writeInput (s : State) (q : List Byte) :
    (s.writeInput q).inBytes = q :=
  State.inBytes_of_writeAll _ s.inBuf q rfl rfl

/-! ### The read loops -/

/-- A use of an input byte that leaves the input and the counter alone and does not look at the
counter. -/
structure InputUse (use : State → Byte → State) : Prop where
  /-- `IN` and `ILEN` are left alone. -/
  inByte? : ∀ s b, (use s b).inByte? = s.inByte?
  /-- `ILEN` is left alone. -/
  ilen : ∀ s b, (use s b).ilen = s.ilen
  /-- `RP` may be advanced before or after. -/
  comm : ∀ s b, use s.advanceRp b = (use s b).advanceRp
  /-- `RP` is left alone. -/
  rp : ∀ s b, (use s b).rp = s.rp

theorem inputUse_cg8Update (p : Params) : InputUse (State.cg8Update p) :=
  ⟨fun _ _ => rfl, fun _ _ => rfl, fun _ _ => rfl, fun _ _ => rfl⟩

theorem inputUse_cg16Update (p : Params) : InputUse (State.cg16Update p) :=
  ⟨fun _ _ => rfl, fun _ _ => rfl, fun _ _ => rfl, fun _ _ => rfl⟩

theorem inputUse_emit : InputUse State.emit :=
  ⟨fun _ _ => rfl, fun _ _ => rfl, fun _ _ => rfl, fun _ _ => rfl⟩

/-- Read form (a), `n` times: the bytes `IN[RP], ..., IN[RP+n-1]` are used in order and `RP` grows by
`n`. -/
theorem iterate_fromInput {use : State → Byte → State} (hu : InputUse use) (n : Nat) (s : State)
    (hs : ∀ a, s.rp ≤ a → a < s.rp + n → ∃ b, s.inByte? a = some b) :
    (State.fromInput use)^[n] s =
      State.advanceRp^[n] (((List.range' s.rp n).filterMap s.inByte?).foldl use s) := by
  induction n generalizing s with
  | zero => rfl
  | succ n ih =>
    obtain ⟨b, hb⟩ := hs s.rp (Nat.le_refl _) (by omega)
    have hstep : State.fromInput use s = (use s b).advanceRp := by
      simp only [State.fromInput, hb]
    have hcomm : ∀ (bs : List Byte) (t : State),
        bs.foldl use t.advanceRp = (bs.foldl use t).advanceRp := by
      intro bs
      induction bs with
      | nil => intro t; rfl
      | cons c cs ihc => intro t; rw [List.foldl_cons, hu.comm, ihc, List.foldl_cons]
    have hin : (use s b).advanceRp.inByte? = s.inByte? := hu.inByte? s b
    have hrp : (use s b).advanceRp.rp = s.rp + 1 := congrArg (· + 1) (hu.rp s b)
    rw [Function.iterate_succ_apply, hstep, ih, hin, hrp, hcomm, ← Function.iterate_succ_apply,
      List.range'_succ, List.filterMap_cons, hb, List.foldl_cons]
    intro a ha ha'
    rw [hin]
    exact hs a (by rw [hrp] at ha; omega) (by rw [hrp] at ha'; omega)

theorem State.iterate_advanceRp (s : State) (n : Nat) :
    State.advanceRp^[n] s = { s with rp := s.rp + n } := by
  induction n generalizing s with
  | zero => rfl
  | succ n ih =>
    rw [Function.iterate_succ_apply, ih, State.advanceRp_rp, Nat.add_right_comm, Nat.add_assoc]
    rfl

/-- Read form (a) over the whole input, from `RP = 0`. -/
theorem State.overInput_eq {use : State → Byte → State} (hu : InputUse use) {s : State}
    (h : s.InputListed) (hrp : s.rp = 0) :
    s.overInput use = { s.inBytes.foldl use s with rp := s.ilen } := by
  have hfold : ∀ (bs : List Byte) (t : State), (bs.foldl use t).rp = t.rp := by
    intro bs
    induction bs with
    | nil => intro t; rfl
    | cons c cs ih => intro t; rw [List.foldl_cons, ih, hu.rp]
  rw [State.overInput, iterate_fromInput hu s.ilen s
    (fun a _ ha => h.inByte (by omega)), State.iterate_advanceRp, hfold, hrp, Nat.zero_add,
    ← List.range_eq_range', ← State.inBytes]

theorem foldl_cg8Update (p : Params) (bs : List Byte) (s : State) :
    bs.foldl (State.cg8Update p) s = s.setAcc8 (crc8Acc p.table8 s.acc8 bs) := by
  induction bs generalizing s with
  | nil => rfl
  | cons b bs ih => rw [List.foldl_cons, ih]; rfl

theorem foldl_cg16Update (p : Params) (bs : List Byte) (s : State) :
    bs.foldl (State.cg16Update p) s = s.setAcc16 (crc16Acc p.table16 s.acc16 bs) := by
  induction bs generalizing s with
  | nil => rfl
  | cons b bs ih => rw [List.foldl_cons, ih]; rfl

theorem foldl_emit (bs : List Byte) (s : State) : bs.foldl State.emit s = s.emitSeq bs := by
  induction bs generalizing s with
  | nil => rfl
  | cons b bs ih => exact ih (s.emit b)

/-- CG8 over the whole input (R100). -/
theorem State.overInput_cg8Update (p : Params) {s : State} (h : s.InputListed) (hrp : s.rp = 0) :
    s.overInput (State.cg8Update p) =
      { s with acc8 := crc8Acc p.table8 s.acc8 s.inBytes, rp := s.ilen } := by
  rw [State.overInput_eq (inputUse_cg8Update p) h hrp, foldl_cg8Update]
  rfl

/-- CG16 over the whole input (R110). -/
theorem State.overInput_cg16Update (p : Params) {s : State} (h : s.InputListed) (hrp : s.rp = 0) :
    s.overInput (State.cg16Update p) =
      { s with acc16 := crc16Acc p.table16 s.acc16 s.inBytes, rp := s.ilen } := by
  rw [State.overInput_eq (inputUse_cg16Update p) h hrp, foldl_cg16Update]
  rfl

/-- The payload copy (R126). -/
theorem State.overInput_emit {s : State} (h : s.InputListed) (hrp : s.rp = 0) :
    s.overInput State.emit = { s.emitSeq s.inBytes with rp := s.ilen } := by
  rw [State.overInput_eq inputUse_emit h hrp, foldl_emit]

/-- Read form (b): the listed bytes of `OUT[0:k]` are used in order. -/
theorem State.overOutput_eq {use : State → Byte → State}
    (hout : ∀ s b, (use s b).outByte? = s.outByte?) (s : State) (k : Nat) :
    s.overOutput use k = ((List.range k).filterMap s.outByte?).foldl use s := by
  have h : ∀ (is : List Nat) (t : State), t.outByte? = s.outByte? →
      is.foldl (State.fromOutput use) t = (is.filterMap s.outByte?).foldl use t := by
    intro is
    induction is with
    | nil => intro t _; rfl
    | cons i is ih =>
      intro t ht
      rw [List.foldl_cons, List.filterMap_cons]
      cases hi : s.outByte? i with
      | none =>
        rw [show State.fromOutput use t i = t by simp only [State.fromOutput, ht, hi]]
        exact ih t ht
      | some b =>
        rw [show State.fromOutput use t i = use t b by simp only [State.fromOutput, ht, hi]]
        exact ih _ ((hout t b).trans ht)
  exact h (List.range k) s rfl

/-- CG8 over everything appended so far (R123). -/
theorem State.overOutput_cg8Update (p : Params) (s : State) :
    s.overOutput (State.cg8Update p) s.wp =
      s.setAcc8 (crc8Acc p.table8 s.acc8 s.outBytes) := by
  have hout : ∀ (t : State) (b : Byte), (State.cg8Update p t b).outByte? = t.outByte? :=
    fun _ _ => rfl
  rw [State.overOutput_eq hout, ← State.outBytes, foldl_cg8Update]

/-- CG16 over everything appended so far (R127). -/
theorem State.overOutput_cg16Update (p : Params) (s : State) :
    s.overOutput (State.cg16Update p) s.wp =
      s.setAcc16 (crc16Acc p.table16 s.acc16 s.outBytes) := by
  have hout : ∀ (t : State) (b : Byte), (State.cg16Update p t b).outByte? = t.outByte? :=
    fun _ _ => rfl
  rw [State.overOutput_eq hout, ← State.outBytes, foldl_cg16Update]

end Sys2Proof.Machine
end

