-- ==== Sys2Proof/Laws/FrameAssembler.lean ====
section
/-! SUPPORT. What the checksum loops and the steps of the frame assembler do, one lemma per step, and the
closed forms of `crc8Steps`, `crc16Steps` and `frameSteps`. Later proofs cite these and do not unfold the
steps (a `rfl` through `midHeader` or `writeAll` is slow). -/

namespace Sys2Proof.Machine

/-! ### The checksum operations -/

/-- `crc8Steps` from a state with `RP = 0` whose input is there. -/
theorem crc8Steps_eq (p : Params) {s : State} (h : s.InputListed) (hrp : s.rp = 0) :
    crc8Steps p s =
      ({ s with acc8 := crc8 p.table8 s.inBytes, rp := s.ilen } : State).emitAcc8.finish := by
  have h' : s.cg8Clear.InputListed := h
  rw [crc8Steps, State.overInput_cg8Update p h' hrp]
  rfl

/-- `crc16Steps` from a state with `RP = 0` whose input is there. -/
theorem crc16Steps_eq (p : Params) {s : State} (h : s.InputListed) (hrp : s.rp = 0) :
    crc16Steps p s =
      ({ s with acc16 := crc16 p.table16 s.inBytes, rp := s.ilen } :
        State).emitAcc16Low.emitAcc16High.finish := by
  have h' : s.cg16Clear.InputListed := h
  rw [crc16Steps, State.overInput_cg16Update p h' hrp]
  rfl

/-! ### Appending -/

/-- `t` is `s` with `bs` appended to `OUT`; beside that at most the accumulators, `RP` and `STEP`
differ. -/
def State.Appends (s t : State) (bs : List Byte) : Prop :=
  t = { s with outBuf := s.outBuf.writeAll s.wp bs, wp := s.wp + bs.length
               acc8 := t.acc8, acc16 := t.acc16, rp := t.rp, stepReg := t.stepReg }

section
variable {s t u : State} {bs cs : List Byte}

theorem State.Appends.trans (h : s.Appends t bs) (k : t.Appends u cs) : s.Appends u (bs ++ cs) := by
  unfold State.Appends at *
  rw [k, h]
  simp [Memory.writeAll_append, Nat.add_assoc]

theorem State.Appends.wp (h : s.Appends t bs) : t.wp = s.wp + bs.length := by
  unfold State.Appends at h; rw [h]

theorem State.Appends.ilen (h : s.Appends t bs) : t.ilen = s.ilen := by
  unfold State.Appends at h; rw [h]

theorem State.Appends.inBuf (h : s.Appends t bs) : t.inBuf = s.inBuf := by
  unfold State.Appends at h; rw [h]

theorem State.Appends.outBuf (h : s.Appends t bs) : t.outBuf = s.outBuf.writeAll s.wp bs := by
  unfold State.Appends at h; rw [h]

theorem State.Appends.outBytes (h : s.Appends t bs) : t.outBytes = s.outBytes ++ bs := by
  rw [← State.outBytes_emitSeq, State.emitSeq_eq_writeAll]
  unfold State.Appends at h
  rw [h]
  rfl

theorem State.Appends.inBytes (h : s.Appends t bs) : t.inBytes = s.inBytes := by
  unfold State.Appends at h; rw [h]; rfl

theorem State.Appends.descriptor (h : s.Appends t bs) : t.descriptor = s.descriptor := by
  unfold State.Appends at h; rw [h]; rfl

theorem State.Appends.inputListed (h : s.Appends t bs) (hs : s.InputListed) : t.InputListed := by
  unfold State.InputListed at *
  rw [h.ilen, h.inBuf]
  exact hs

theorem State.Appends.setStep (h : s.Appends t bs) (k : Fin 9) : s.Appends (t.setStep k) bs :=
  congrArg (fun v => State.setStep v k) h

theorem State.Appends.setAcc8 (h : s.Appends t bs) (v : Byte) : s.Appends (t.setAcc8 v) bs :=
  congrArg (fun w => State.setAcc8 w v) h

theorem State.Appends.setAcc16 (h : s.Appends t bs) (v : Word16) : s.Appends (t.setAcc16 v) bs :=
  congrArg (fun w => State.setAcc16 w v) h

/-- What `OUT[a]` is after an append. -/
theorem State.Appends.outByte? (h : s.Appends t bs) (a : Nat) :
    t.outByte? a = if a < s.wp then s.outByte? a else bs[a - s.wp]? := by
  unfold State.outByte?
  rw [h.wp, h.outBuf, Memory.read_writeAll]
  by_cases h1 : a < s.wp
  · rw [if_pos (by omega), if_neg (by omega), if_pos h1, if_pos h1]
  · rw [if_neg h1]
    by_cases h2 : a < s.wp + bs.length
    · rw [if_pos h2, if_pos (by omega)]
    · rw [if_neg h2, List.getElem?_eq_none (by omega)]

end

theorem appends_emitSeq (s : State) (bs : List Byte) : s.Appends (s.emitSeq bs) bs := by
  unfold State.Appends
  rw [State.emitSeq_eq_writeAll]

/-! ### The steps -/

/-- The two length bytes are `le16` of the length, exactly, when it fits (R84). -/
theorem lengthBytes_eq {n : Nat} (h : n ≤ 65535) :
    [lengthLow n, lengthHigh n] = le16 (BitVec.ofNat 16 n) := by
  unfold lengthLow lengthHigh le16 lowByte highByte
  congr 1
  · apply BitVec.eq_of_toNat_eq; simp
  · congr 1
    apply BitVec.eq_of_toNat_eq; simp [Nat.shiftRight_eq_div_pow]; omega

theorem faStep1_appends (s : State) : s.Appends (faStep1 s) [magicByte, versionByte] :=
  (appends_emitSeq s [magicByte, versionByte]).setStep 2

theorem faStep1_rp (s : State) : (faStep1 s).rp = s.rp := by simp [faStep1]

theorem faStep2_appends (s : State) (h : s.ilen ≤ 65535) :
    s.Appends (faStep2 s) (le16 (BitVec.ofNat 16 s.ilen)) := by
  rw [← lengthBytes_eq h]
  exact (appends_emitSeq s [lengthLow s.ilen, lengthHigh s.ilen]).setStep 3

theorem faStep2_rp (s : State) : (faStep2 s).rp = s.rp := by simp [faStep2]

/-- Step 3 in closed form, at the `WP` it starts at. -/
theorem faStep3_eq (p : Params) (s : State) (hw : s.wp = 4) :
    faStep3 p s =
      ((s.emitSeq [crc8 p.table8 s.outBytes]).setAcc8 (crc8 p.table8 s.outBytes)).setStep 4 := by
  have h4 : s.cg8Clear.wp = 4 := hw
  rw [faStep3, ← h4, State.overOutput_cg8Update]
  rfl

theorem faStep3_appends (p : Params) (s : State) (hw : s.wp = 4) :
    s.Appends (faStep3 p s) [crc8 p.table8 s.outBytes] := by
  rw [faStep3_eq p s hw]
  exact ((appends_emitSeq s _).setAcc8 _).setStep 4

theorem faStep3_acc8 (p : Params) (s : State) (hw : s.wp = 4) :
    (faStep3 p s).acc8 = crc8 p.table8 s.outBytes := by
  rw [faStep3_eq p s hw, State.setStep_acc8, State.setAcc8_acc8]

theorem faStep3_rp (p : Params) (s : State) (hw : s.wp = 4) : (faStep3 p s).rp = s.rp := by
  rw [faStep3_eq p s hw, State.emitSeq_eq_writeAll, State.setStep_rp, State.setAcc8_rp]

theorem faStep4_appends (s : State) : s.Appends (faStep4 s) midHeader :=
  (appends_emitSeq s midHeader).setStep 5

theorem faStep4_rp (s : State) : (faStep4 s).rp = s.rp := by
  rw [faStep4, State.emitSeq_eq_writeAll, State.setStep_rp]

theorem faStep4_acc8 (s : State) : (faStep4 s).acc8 = s.acc8 := by
  rw [faStep4, State.emitSeq_eq_writeAll, State.setStep_acc8]

theorem faStep5_appends (s : State) : s.Appends (faStep5 s) [s.dst, s.cmdSet, s.cmdId] :=
  (appends_emitSeq s [s.dst, s.cmdSet, s.cmdId]).setStep 6

theorem faStep5_rp (s : State) : (faStep5 s).rp = s.rp := by simp [faStep5]

theorem faStep5_acc8 (s : State) : (faStep5 s).acc8 = s.acc8 := by simp [faStep5]

/-- Step 6 in closed form. -/
theorem faStep6_eq (s : State) (h : s.InputListed) (hrp : s.rp = 0) :
    faStep6 s = { s.emitSeq s.inBytes with rp := s.ilen, stepReg := 7 } := by
  rw [faStep6, State.overInput_emit h hrp]
  rfl

theorem faStep6_appends (s : State) (h : s.InputListed) (hrp : s.rp = 0) :
    s.Appends (faStep6 s) s.inBytes := by
  unfold State.Appends
  rw [faStep6_eq s h hrp, State.emitSeq_eq_writeAll]

/-- Step 7 in closed form. -/
theorem faStep7_eq (p : Params) (s : State) :
    faStep7 p s =
      ((s.emitSeq (le16 (crc16 p.table16 s.outBytes))).setAcc16
        (crc16 p.table16 s.outBytes)).setStep 8 := by
  have hw : s.wp = s.cg16Clear.wp := rfl
  rw [faStep7, hw, State.overOutput_cg16Update]
  rfl

theorem faStep7_appends (p : Params) (s : State) :
    s.Appends (faStep7 p s) (le16 (crc16 p.table16 s.outBytes)) := by
  rw [faStep7_eq]
  exact ((appends_emitSeq s _).setAcc16 _).setStep 8

/-- Steps 1 to 6. -/
def assembleBody (p : Params) (s : State) : State :=
  faStep6 (faStep5 (faStep4 (faStep3 p (faStep2 (faStep1 s)))))

theorem assemble_eq_assembleBody (p : Params) (s : State) :
    assemble p s = (faStep7 p (assembleBody p s)).finish := by
  rw [assemble, faStep8, assembleBody]

/-- Steps 1 to 6 append `g` of R120. -/
theorem assembleBody_spec (p : Params) {s : State} (hl : s.InputListed) (hn : s.ilen ≤ 65535)
    (hw : s.wp = 0) (hrp : s.rp = 0) :
    s.Appends (assembleBody p s) (frameBody p.table8 s.descriptor) ∧
    (assembleBody p s).acc8 = crc8 p.table8 (frameHead s.ilen) ∧
    (assembleBody p s).rp = s.ilen := by
  have hN : s.descriptor.payload.length = s.ilen := hl.length_inBytes
  have hb0 : s.outBytes = [] := by simp [State.outBytes, hw]
  have a1 := faStep1_appends s
  have a2 := a1.trans (faStep2_appends (faStep1 s) (by rw [a1.ilen]; exact hn))
  rw [a1.ilen, show [magicByte, versionByte] ++ le16 (BitVec.ofNat 16 s.ilen)
    = frameHead s.ilen from rfl] at a2
  have w2 : (faStep2 (faStep1 s)).wp = 4 := by rw [a2.wp, hw]; rfl
  have b2 : (faStep2 (faStep1 s)).outBytes = frameHead s.ilen := by
    rw [a2.outBytes, hb0, List.nil_append]
  have a3 := a2.trans (faStep3_appends p _ w2)
  have c3 := faStep3_acc8 p _ w2
  rw [b2] at a3 c3
  have a4 := a3.trans (faStep4_appends _)
  have a5 := a4.trans (faStep5_appends _)
  have i5 := a5.inputListed hl
  have r5 : (faStep5 (faStep4 (faStep3 p (faStep2 (faStep1 s))))).rp = 0 := by
    rw [faStep5_rp, faStep4_rp, faStep3_rp p _ w2, faStep2_rp, faStep1_rp, hrp]
  have a6 := a5.trans (faStep6_appends _ i5 r5)
  have e6 := faStep6_eq _ i5 r5
  rw [a5.inBytes] at a6
  refine ⟨?_, ?_, ?_⟩
  · have d4 := congrArg Descriptor.dst a4.descriptor
    have e4 := congrArg Descriptor.cmdSet a4.descriptor
    have f4 := congrArg Descriptor.cmdId a4.descriptor
    simp only [State.descriptor] at d4 e4 f4
    rw [d4, e4, f4] at a6
    rw [frameBody, hN]
    exact a6
  · have h6 : (assembleBody p s).acc8
        = (faStep5 (faStep4 (faStep3 p (faStep2 (faStep1 s))))).acc8 := by
      rw [assembleBody, e6, State.emitSeq_eq_writeAll]
    rw [h6, faStep5_acc8, faStep4_acc8, c3]
  · rw [← a5.ilen, assembleBody, e6]

/-! ### The whole operation -/

theorem length_frameBody (t : Byte → Byte) (d : Descriptor) :
    (frameBody t d).length = 16 + d.payload.length := by
  simp [frameBody, frameHead, le16, midHeader]; omega

theorem length_frame (p : Params) (d : Descriptor) :
    (frame p d).length = 18 + d.payload.length := by
  rw [frame, List.length_append, length_frameBody, le16]; simp; omega

/-- The state in which a frame has been built from `s`. -/
def State.framed (p : Params) (s : State) : State :=
  { s with outBuf := s.outBuf.writeAll 0 (frame p s.descriptor), wp := 18 + s.ilen, rp := s.ilen
           acc8 := crc8 p.table8 (frameHead s.ilen)
           acc16 := crc16 p.table16 (frameBody p.table8 s.descriptor)
           stepReg := 8, status := ⟨true, s.status.err⟩, todo := [] }

/-- Steps 1 to 8 from `WP = 0`, `RP = 0`, on a payload that fits and is there. -/
theorem assemble_eq_framed (p : Params) {s : State} (hl : s.InputListed) (hn : s.ilen ≤ 65535)
    (hw : s.wp = 0) (hrp : s.rp = 0) : assemble p s = s.framed p := by
  obtain ⟨a6, c6, r6⟩ := assembleBody_spec p hl hn hw hrp
  have hN : s.descriptor.payload.length = s.ilen := hl.length_inBytes
  have b6 : (assembleBody p s).outBytes = frameBody p.table8 s.descriptor := by
    rw [a6.outBytes]; simp [State.outBytes, hw]
  have a7 := a6.trans (faStep7_appends p _)
  have e7 := faStep7_eq p (assembleBody p s)
  rw [b6] at a7 e7
  rw [← frame] at a7
  have x1 : (faStep7 p (assembleBody p s)).acc8 = crc8 p.table8 (frameHead s.ilen) := by
    rw [e7, State.emitSeq_eq_writeAll, State.setStep_acc8, State.setAcc16_acc8, c6]
  have x2 : (faStep7 p (assembleBody p s)).acc16
      = crc16 p.table16 (frameBody p.table8 s.descriptor) := by
    rw [e7, State.setStep_acc16, State.setAcc16_acc16]
  have x3 : (faStep7 p (assembleBody p s)).rp = s.ilen := by
    rw [e7, State.emitSeq_eq_writeAll, State.setStep_rp, State.setAcc16_rp, r6]
  have x4 : (faStep7 p (assembleBody p s)).stepReg = 8 := by rw [e7, State.setStep_stepReg]
  unfold State.Appends at a7
  rw [x1, x2, x3, x4, hw, length_frame, hN, Nat.zero_add] at a7
  rw [assemble_eq_assembleBody, a7, State.finish, State.framed]

/-- `frameSteps` on a payload that fits and is there, from the issued counters. -/
theorem frameSteps_of_le (p : Params) {s : State} (hl : s.InputListed) (hn : s.ilen ≤ 65535)
    (hw : s.wp = 0) (hrp : s.rp = 0) : frameSteps p s = s.framed p := by
  have h' : (s.setStep 1).InputListed := hl
  rw [frameSteps, if_neg (by unfold maxPayload; omega), assemble_eq_framed p h' hn hw hrp]
  rfl

/-- `frameSteps` on an over-long payload. -/
theorem frameSteps_of_gt (p : Params) {s : State} (hn : 65535 < s.ilen) :
    frameSteps p s = s.raisePayloadTooLarge s.ilen := if_pos hn

theorem State.framed_outBytes (p : Params) {s : State} (hl : s.InputListed) :
    (s.framed p).outBytes = frame p s.descriptor := by
  have hN : s.descriptor.payload.length = s.ilen := hl.length_inBytes
  exact State.outBytes_of_writeAll _ s.outBuf (frame p s.descriptor) (by rw [State.framed])
    (by rw [length_frame, hN, State.framed])

/-- A descriptor just written is the descriptor that stands there. -/
@[simp] theorem State.descriptor_writeDescriptor (s : State) (d : Descriptor) :
    (s.writeDescriptor d).descriptor = d := by
  rw [State.descriptor, State.inBytes_writeDescriptor]
  rfl

end Sys2Proof.Machine
end

