-- ==== Sys2Proof/Laws/Micro.lean ====
section
/-! SUPPORT. What a micro-step can do, said once (`microStep_cases`), and how a list of micro-steps runs:
when each read can be made (`Ready`), the machine does one micro-step after another (`microRun_ready`), `WP`
grows by the appends and `RP` by the input reads. -/

namespace Sys2Proof.Machine

/-! ### One micro-step -/

/-- All a micro-step that answers a next state can do. -/
theorem microStep_cases {p : Params} {s t : State} (h : microStep p s = .next t) :
    (s.todo = [] ∧ t = s) ∨
    ∃ m rest, s.todo = m :: rest ∧ m.missingRead s = none ∧ t = m.perform p (s.setTodo rest) := by
  unfold microStep at h
  split at h
  · cases h
    exact .inl ⟨‹_›, rfl⟩
  · split at h
    · cases h
    · cases h
      exact .inr ⟨_, _, ‹_›, ‹_›, rfl⟩

/-- What is still to be done decides no read. -/
theorem Micro.missingRead_setTodo (m : Micro) (s : State) (l : List Micro) :
    m.missingRead (s.setTodo l) = m.missingRead s := by
  cases m <;> rfl

theorem microStep_ready (p : Params) {m : Micro} {s : State} (h : m.missingRead s = none)
    (rest : List Micro) :
    microStep p (s.setTodo (m :: rest)) = .next (m.perform p (s.setTodo rest)) := by
  have h' : m.missingRead (s.setTodo (m :: rest)) = none := (m.missingRead_setTodo s _).trans h
  show (match m.missingRead (s.setTodo (m :: rest)) with
    | some f => .fault f
    | none => .next (m.perform p (s.setTodo rest)) : Host.Outcome State Fault Refusal) = _
  rw [h']

theorem microStep_missing (p : Params) {m : Micro} {s : State} {f : Fault}
    (h : m.missingRead s = some f) (rest : List Micro) :
    microStep p (s.setTodo (m :: rest)) = .fault f := by
  have h' : m.missingRead (s.setTodo (m :: rest)) = some f := (m.missingRead_setTodo s _).trans h
  show (match m.missingRead (s.setTodo (m :: rest)) with
    | some f => .fault f
    | none => .next (m.perform p (s.setTodo rest)) : Host.Outcome State Fault Refusal) = _
  rw [h']

theorem State.missingInputByte_eq_none_iff (s : State) :
    s.missingInputByte = none ↔ ∃ b, s.inByte? s.rp = some b := by
  unfold State.missingInputByte
  cases s.inByte? s.rp <;> simp

theorem State.missingOutputByte_eq_none_iff (s : State) (i : Nat) :
    s.missingOutputByte i = none ↔ ∃ b, s.outByte? i = some b := by
  unfold State.missingOutputByte
  cases s.outByte? i <;> simp

theorem State.fromInput_of_some {use : State → Byte → State} {s : State} {b : Byte}
    (h : s.inByte? s.rp = some b) : s.fromInput use = (use s b).advanceRp := by
  simp only [State.fromInput, h]

theorem State.fromOutput_of_some {use : State → Byte → State} {s : State} {i : Nat} {b : Byte}
    (h : s.outByte? i = some b) : s.fromOutput use i = use s b := by
  simp only [State.fromOutput, h]

/-! ### Several micro-steps -/

theorem microRun_zero (p : Params) (s : State) : microRun p 0 s = .next s := rfl

theorem microRun_succ {p : Params} {s t : State} (n : Nat) (h : microStep p s = .next t) :
    microRun p (n + 1) s = microRun p n t := by
  rw [microRun, h]

theorem microRun_succ_fault {p : Params} {s : State} {f : Fault} (n : Nat)
    (h : microStep p s = .fault f) : microRun p (n + 1) s = .fault f := by
  rw [microRun, h]

theorem microRun_add {p : Params} {s t : State} {k : Nat} (h : microRun p k s = .next t) (n : Nat) :
    microRun p (k + n) s = microRun p n t := by
  induction k generalizing s with
  | zero => cases h; rw [Nat.zero_add]
  | succ k ih =>
    rw [Nat.add_right_comm]
    cases hs : microStep p s with
    | next u => rw [microRun_succ _ hs] at h ⊢; exact ih h
    | fault f => rw [microRun_succ_fault _ hs] at h; cases h
    | refused r => rw [microRun, hs] at h; cases h

/-- A property that every micro-step keeps holds after any number of them. -/
theorem microRun_induction {p : Params} {P : State → Prop}
    (hstep : ∀ s t, P s → microStep p s = .next t → P t) {n : Nat} {s t : State} (hs : P s)
    (h : microRun p n s = .next t) : P t := by
  induction n generalizing s with
  | zero => cases h; exact hs
  | succ n ih =>
    cases hm : microStep p s with
    | next u => rw [microRun_succ _ hm] at h; exact ih (hstep _ _ hs hm) h
    | fault f => rw [microRun_succ_fault _ hm] at h; cases h
    | refused r => rw [microRun, hm] at h; cases h

/-- A list of micro-steps done one after another. -/
def runMicro (p : Params) (l : List Micro) (s : State) : State := l.foldl (fun t m => m.perform p t) s

theorem runMicro_cons (p : Params) (m : Micro) (l : List Micro) (s : State) :
    runMicro p (m :: l) s = runMicro p l (m.perform p s) := rfl

theorem runMicro_append (p : Params) (l k : List Micro) (s : State) :
    runMicro p (l ++ k) s = runMicro p k (runMicro p l s) := by
  simp [runMicro]

theorem runMicro_replicate (p : Params) (m : Micro) (n : Nat) (s : State) :
    runMicro p (List.replicate n m) s = (m.perform p)^[n] s := by
  induction n generalizing s with
  | zero => rfl
  | succ n ih => rw [List.replicate_succ, Function.iterate_succ_apply, ← ih, runMicro_cons]

theorem State.fromInput_setTodo {use : State → Byte → State}
    (hu : ∀ s b l, use (s.setTodo l) b = (use s b).setTodo l) (s : State) (l : List Micro) :
    (s.setTodo l).fromInput use = (s.fromInput use).setTodo l := by
  have h : (s.setTodo l).inByte? (s.setTodo l).rp = s.inByte? s.rp := rfl
  unfold State.fromInput
  rw [h]
  cases s.inByte? s.rp with
  | none => rfl
  | some b => simp only [hu]; rfl

theorem State.fromOutput_setTodo {use : State → Byte → State}
    (hu : ∀ s b l, use (s.setTodo l) b = (use s b).setTodo l) (s : State) (l : List Micro) (i : Nat) :
    (s.setTodo l).fromOutput use i = (s.fromOutput use i).setTodo l := by
  have h : (s.setTodo l).outByte? i = s.outByte? i := rfl
  unfold State.fromOutput
  rw [h]
  cases s.outByte? i with
  | none => rfl
  | some b => exact hu s b l

/-- Every micro-step but the length check and the last one commutes with a change of what is to do. -/
theorem Micro.perform_setTodo (p : Params) (m : Micro) (s : State) (l : List Micro)
    (h1 : m ≠ .checkLength) (h2 : m ≠ .finish) :
    m.perform p (s.setTodo l) = (m.perform p s).setTodo l := by
  cases m with
  | checkLength => exact absurd rfl h1
  | finish => exact absurd rfl h2
  | cg8Input => exact State.fromInput_setTodo (fun _ _ _ => rfl) s l
  | cg16Input => exact State.fromInput_setTodo (fun _ _ _ => rfl) s l
  | copyInput => exact State.fromInput_setTodo (fun _ _ _ => rfl) s l
  | cg8Output i => exact State.fromOutput_setTodo (fun _ _ _ => rfl) s l i
  | cg16Output i => exact State.fromOutput_setTodo (fun _ _ _ => rfl) s l i
  | _ => rfl

/-- Every read of a list of micro-steps can be made when its turn comes. -/
def Ready (p : Params) : List Micro → State → Prop
  | [], _ => True
  | m :: l, s => m.missingRead s = none ∧ Ready p l (m.perform p s)

theorem ready_append {p : Params} {l k : List Micro} {s : State} :
    Ready p (l ++ k) s ↔ Ready p l s ∧ Ready p k (runMicro p l s) := by
  induction l generalizing s with
  | nil => simp [Ready, runMicro]
  | cons m l ih => rw [List.cons_append, Ready, Ready, ih, runMicro_cons, and_assoc]

/-- A list of micro-steps that read nothing is ready. -/
theorem ready_of_no_reads {p : Params} {l : List Micro} (h : ∀ m ∈ l, ∀ s, m.missingRead s = none)
    (s : State) : Ready p l s := by
  induction l generalizing s with
  | nil => exact trivial
  | cons m l ih =>
    exact ⟨h m List.mem_cons_self s, ih (fun k hk => h k (List.mem_cons_of_mem _ hk)) _⟩

/-- Input reads are ready as long as the bytes from `RP` on are there. -/
theorem ready_replicate_input {p : Params} {m : Micro} {use : State → Byte → State} (hu : InputUse use)
    (hm : ∀ s, m.missingRead s = s.missingInputByte) (hp : ∀ s, m.perform p s = s.fromInput use)
    (n : Nat) (s : State) (hs : ∀ a, s.rp ≤ a → a < s.rp + n → ∃ b, s.inByte? a = some b) :
    Ready p (List.replicate n m) s := by
  induction n generalizing s with
  | zero => exact trivial
  | succ n ih =>
    obtain ⟨b, hb⟩ := hs s.rp (Nat.le_refl _) (by omega)
    have hstep : m.perform p s = (use s b).advanceRp := (hp s).trans (State.fromInput_of_some hb)
    have hin : (use s b).advanceRp.inByte? = s.inByte? := hu.inByte? s b
    have hrp : (use s b).advanceRp.rp = s.rp + 1 := congrArg (· + 1) (hu.rp s b)
    refine ⟨(hm s).trans (s.missingInputByte_eq_none_iff.2 ⟨b, hb⟩), hstep ▸ ih _ fun a h1 h2 => ?_⟩
    rw [hin]
    exact hs a (by omega) (by omega)

/-- Reads of `OUT` are ready when the bytes are there. -/
theorem ready_outputs {p : Params} {f : Nat → Micro} {use : State → Byte → State}
    (hu : ∀ s b, (use s b).outByte? = s.outByte?)
    (hm : ∀ i s, (f i).missingRead s = s.missingOutputByte i)
    (hp : ∀ i s, (f i).perform p s = s.fromOutput use i) (is : List Nat) (s : State)
    (hs : ∀ i ∈ is, ∃ b, s.outByte? i = some b) : Ready p (is.map f) s := by
  induction is generalizing s with
  | nil => exact trivial
  | cons i is ih =>
    obtain ⟨b, hb⟩ := hs i List.mem_cons_self
    have hstep : (f i).perform p s = use s b := (hp i s).trans (State.fromOutput_of_some hb)
    refine ⟨(hm i s).trans ((s.missingOutputByte_eq_none_iff i).2 ⟨b, hb⟩),
      hstep ▸ ih _ fun j hj => ?_⟩
    rw [hu]
    exact hs j (List.mem_cons_of_mem _ hj)

/-- A ready list at the head of what is to do takes one step of the machine each. -/
theorem microRun_ready (p : Params) (l rest : List Micro) (s : State) (hr : Ready p l s)
    (h1 : .checkLength ∉ l) (h2 : .finish ∉ l) :
    microRun p l.length (s.setTodo (l ++ rest)) = .next ((runMicro p l s).setTodo rest) := by
  induction l generalizing s with
  | nil => rfl
  | cons m l ih =>
    rw [List.length_cons, List.cons_append, microRun_succ _ (microStep_ready p hr.1 _),
      Micro.perform_setTodo p m s (l ++ rest) (fun e => h1 (e ▸ List.mem_cons_self))
        (fun e => h2 (e ▸ List.mem_cons_self)),
      ih (m.perform p s) hr.2 (fun h => h1 (List.mem_cons_of_mem _ h))
        (fun h => h2 (List.mem_cons_of_mem _ h)), runMicro_cons]

/-! ### The counters and the buffers -/

/-- How many bytes a micro-step appends. -/
def Micro.appends (m : Micro) : Nat :=
  match m with
  | .emitAcc8 | .emitAcc16Low | .emitAcc16High | .emitByte _ | .emitLengthLow | .emitLengthHigh
  | .emitDst | .emitCmdSet | .emitCmdId | .copyInput => 1
  | .cg8Clear | .cg8Input | .cg8Output _ | .cg16Clear | .cg16Input | .cg16Output _ | .predicate
  | .writeDescriptor _ | .chooseDescriptor _ _ | .checkLength | .setStep _ | .finish => 0

/-- How many input bytes a micro-step reads. -/
def Micro.inputs (m : Micro) : Nat :=
  match m with
  | .cg8Input | .cg16Input | .copyInput => 1
  | .cg8Clear | .cg8Output _ | .emitAcc8 | .cg16Clear | .cg16Output _ | .emitAcc16Low | .emitAcc16High
  | .predicate | .writeDescriptor _ | .chooseDescriptor _ _ | .checkLength | .emitByte _
  | .emitLengthLow | .emitLengthHigh | .emitDst | .emitCmdSet | .emitCmdId | .setStep _ | .finish => 0

/-- `WP` and `RP` after a micro-step whose read can be made. -/
theorem Micro.perform_counters (p : Params) {m : Micro} {s : State} (h : m.missingRead s = none) :
    (m.perform p s).wp = s.wp + m.appends ∧ (m.perform p s).rp = s.rp + m.inputs := by
  cases m with
  | cg8Input =>
    obtain ⟨b, hb⟩ := s.missingInputByte_eq_none_iff.1 h
    rw [Micro.perform, State.fromInput_of_some hb]; exact ⟨rfl, rfl⟩
  | cg16Input =>
    obtain ⟨b, hb⟩ := s.missingInputByte_eq_none_iff.1 h
    rw [Micro.perform, State.fromInput_of_some hb]; exact ⟨rfl, rfl⟩
  | copyInput =>
    obtain ⟨b, hb⟩ := s.missingInputByte_eq_none_iff.1 h
    rw [Micro.perform, State.fromInput_of_some hb]; exact ⟨rfl, rfl⟩
  | cg8Output i =>
    obtain ⟨b, hb⟩ := (s.missingOutputByte_eq_none_iff i).1 h
    rw [Micro.perform, State.fromOutput_of_some hb]; exact ⟨rfl, rfl⟩
  | cg16Output i =>
    obtain ⟨b, hb⟩ := (s.missingOutputByte_eq_none_iff i).1 h
    rw [Micro.perform, State.fromOutput_of_some hb]; exact ⟨rfl, rfl⟩
  | checkLength => rw [Micro.perform]; split <;> exact ⟨rfl, rfl⟩
  | _ => exact ⟨rfl, rfl⟩

/-- `WP` and `RP` after a ready list of micro-steps. -/
theorem runMicro_counters {p : Params} {l : List Micro} {s : State} (h : Ready p l s) :
    (runMicro p l s).wp = s.wp + (l.map Micro.appends).sum ∧
    (runMicro p l s).rp = s.rp + (l.map Micro.inputs).sum := by
  induction l generalizing s with
  | nil => exact ⟨rfl, rfl⟩
  | cons m l ih =>
    obtain ⟨w, r⟩ := Micro.perform_counters p h.1
    obtain ⟨w', r'⟩ := ih h.2
    simp only [List.map_cons, List.sum_cons, runMicro_cons]
    omega

/-- The operands as they stand: `IN`, `ILEN`, `DST`, `CMD_SET`, `CMD_ID`. -/
def State.SameOperands (s t : State) : Prop :=
  t.inBuf = s.inBuf ∧ t.ilen = s.ilen ∧ t.dst = s.dst ∧ t.cmdSet = s.cmdSet ∧ t.cmdId = s.cmdId

/-- A micro-step that writes a descriptor (R139). -/
def Micro.writesOperands (m : Micro) : Bool :=
  match m with
  | .writeDescriptor _ | .chooseDescriptor _ _ => true
  | .cg8Clear | .cg8Input | .cg8Output _ | .emitAcc8 | .cg16Clear | .cg16Input | .cg16Output _
  | .emitAcc16Low | .emitAcc16High | .predicate | .checkLength | .emitByte _ | .emitLengthLow
  | .emitLengthHigh | .emitDst | .emitCmdSet | .emitCmdId | .copyInput | .setStep _ | .finish => false

/-- Only the two descriptor writes change an operand. -/
theorem Micro.perform_operands (p : Params) {m : Micro} (s : State) (h : m.writesOperands = false) :
    s.SameOperands (m.perform p s) := by
  cases m with
  | writeDescriptor d => cases h
  | chooseDescriptor a b => cases h
  | cg8Input => rw [Micro.perform, State.fromInput]; split <;> exact ⟨rfl, rfl, rfl, rfl, rfl⟩
  | cg16Input => rw [Micro.perform, State.fromInput]; split <;> exact ⟨rfl, rfl, rfl, rfl, rfl⟩
  | copyInput => rw [Micro.perform, State.fromInput]; split <;> exact ⟨rfl, rfl, rfl, rfl, rfl⟩
  | cg8Output i => rw [Micro.perform, State.fromOutput]; split <;> exact ⟨rfl, rfl, rfl, rfl, rfl⟩
  | cg16Output i => rw [Micro.perform, State.fromOutput]; split <;> exact ⟨rfl, rfl, rfl, rfl, rfl⟩
  | checkLength => rw [Micro.perform]; split <;> exact ⟨rfl, rfl, rfl, rfl, rfl⟩
  | _ => exact ⟨rfl, rfl, rfl, rfl, rfl⟩

theorem runMicro_operands {p : Params} {l : List Micro} (s : State)
    (h : ∀ m ∈ l, m.writesOperands = false) : s.SameOperands (runMicro p l s) := by
  induction l generalizing s with
  | nil => exact ⟨rfl, rfl, rfl, rfl, rfl⟩
  | cons m l ih =>
    obtain ⟨a, b, c, d, e⟩ := Micro.perform_operands p s (h m List.mem_cons_self)
    obtain ⟨a', b', c', d', e'⟩ := ih (m.perform p s) (fun k hk => h k (List.mem_cons_of_mem _ hk))
    exact ⟨a'.trans a, b'.trans b, c'.trans c, d'.trans d, e'.trans e⟩

theorem State.SameOperands.inByte? {s t : State} (h : s.SameOperands t) : t.inByte? = s.inByte? := by
  funext a
  rw [State.inByte?, State.inByte?, h.1, h.2.1]

theorem State.outputListed_emit {s : State} (h : s.OutputListed) (v : Byte) : (s.emit v).OutputListed := by
  intro a ha
  rw [State.emit_outBuf, Memory.read_write]
  split
  · rfl
  · exact h a (by rw [State.emit_wp] at ha; omega)

theorem State.OutputListed.outByte {s : State} (h : s.OutputListed) {a : Nat} (ha : a < s.wp) :
    ∃ b, s.outByte? a = some b := by
  simpa [State.outByte?, ha, Option.isSome_iff_exists] using h a ha

/-- Every micro-step keeps the bytes of `OUT` below `WP` there. -/
theorem Micro.perform_outputListed (p : Params) (m : Micro) {s : State} (h : s.OutputListed) :
    (m.perform p s).OutputListed := by
  cases m with
  | emitAcc8 => exact State.outputListed_emit h _
  | emitAcc16Low => exact State.outputListed_emit h _
  | emitAcc16High => exact State.outputListed_emit h _
  | emitByte b => exact State.outputListed_emit h _
  | emitLengthLow => exact State.outputListed_emit h _
  | emitLengthHigh => exact State.outputListed_emit h _
  | emitDst => exact State.outputListed_emit h _
  | emitCmdSet => exact State.outputListed_emit h _
  | emitCmdId => exact State.outputListed_emit h _
  | copyInput =>
    rw [Micro.perform, State.fromInput]
    split
    · exact State.outputListed_emit h _
    · exact h
  | cg8Input => rw [Micro.perform, State.fromInput]; split <;> exact h
  | cg16Input => rw [Micro.perform, State.fromInput]; split <;> exact h
  | cg8Output i => rw [Micro.perform, State.fromOutput]; split <;> exact h
  | cg16Output i => rw [Micro.perform, State.fromOutput]; split <;> exact h
  | checkLength => rw [Micro.perform]; split <;> exact h
  | _ => exact h

theorem runMicro_outputListed (p : Params) (l : List Micro) {s : State} (h : s.OutputListed) :
    (runMicro p l s).OutputListed := by
  induction l generalizing s with
  | nil => exact h
  | cons m l ih => exact ih (m.perform_outputListed p h)

end Sys2Proof.Machine
end

