-- ==== Sys2Proof/Laws/PerInstr.lean ====
section
/-! SUPPORT. Statements about each operation as syntax: its encoding is one byte, and that byte decodes to
it and to nothing else. -/

namespace Sys2Proof.Laws.Encoding

/-- The encoding of `i` is one byte; it decodes to `i`, whatever follows it, and so does the
table word it makes. -/
def Statement (i : Instr) : Prop :=
  (encode i).length = 1 ∧ (∀ rest, decode (encode i ++ rest) = .ok (i, rest)) ∧
  decodeTableWord 8 (encodeOp i).toNat = some i

theorem crc8 : Statement .crc8 := ⟨rfl, fun _ => rfl, by decide⟩
theorem crc16 : Statement .crc16 := ⟨rfl, fun _ => rfl, by decide⟩
theorem buildFrame : Statement .buildFrame := ⟨rfl, fun _ => rfl, by decide⟩
theorem isDeltaModel : Statement .isDeltaModel := ⟨rfl, fun _ => rfl, by decide⟩
theorem acSwitch : Statement .acSwitch := ⟨rfl, fun _ => rfl, by decide⟩
theorem getPd : Statement .getPd := ⟨rfl, fun _ => rfl, by decide⟩
theorem getDcInType : Statement .getDcInType := ⟨rfl, fun _ => rfl, by decide⟩
theorem getDcInCurrent : Statement .getDcInCurrent := ⟨rfl, fun _ => rfl, by decide⟩

end Sys2Proof.Laws.Encoding
end

