-- ==== Sys2Proof/Tests/Slice0.lean ====
section
/-! SUPPORT. Tests. Expected values are from spec/95_test_vectors.md (its ids stand in the docstrings) or
from the tables of spec/30_encoding.md. The witnesses at the end show, for each statement with
hypotheses, a concrete state that meets all of them. -/

namespace Sys2Proof.Tests

set_option Elab.async false

open Sys2Proof Sys2Proof.Machine

/-! ### Fixtures -/

/-- One step of the fixture table `T8_P07` (spec/95_test_vectors.md section 2). -/
def p07Shift (c : Byte) : Byte := if c.getLsbD 7 then (c <<< 1) ^^^ 0x07#8 else c <<< 1

/-- `T8_P07`, a test table, not the device's. -/
def t8P07 (i : Byte) : Byte := p07Shift (p07Shift (p07Shift (p07Shift
  (p07Shift (p07Shift (p07Shift (p07Shift i)))))))

/-- Parameters with `T8_ID`, `T16_ARC` and five made-up constants of `GET_DC_IN_CURRENT`. -/
def idParams : Params := ⟨id, t16Arc, 0x51#8, 0x41#8, 0x21#8, 0x71#8, [0x99#8]⟩

/-- The same with `T8_P07`. -/
def p07Params : Params := { idParams with table8 := t8P07 }

/-- An idle block with these moves to come, on the state after reset. -/
def scripted (l : List CallerMove) : State := State.reset.setScript l

/-- An idle block with these bytes in `IN`. -/
def holding (bs : List Byte) : State := State.reset.writeInput bs

/-- An idle block with a descriptor presented. -/
def loaded : State := State.reset.writeDescriptor ⟨0x10#8, 0x20#8, 0x30#8, [0xAA#8]⟩

/-- An idle block with an over-long `ILEN` (VE-2). -/
def overlong : State := { State.reset with ilen := 65536 }

/-- A block with an operation under way. -/
def underWay (l : List CallerMove) : State := ((scripted l).start Config.params .getPd)

/-- A block with these micro-steps still to do, on one byte of `IN` and one byte of `OUT`. -/
def doing (l : List Micro) : State :=
  ((holding [0x07#8]).emit 0xAA#8).setTodo l

/-- A block whose last operation ended well with two bytes. -/
def ended (l : List CallerMove) : State :=
  { scripted l with outBuf := [(0, 0x80#8), (1, 0x51#8)], wp := 2, status := ⟨true, false⟩ }

/-- A next state, and nothing else. -/
def isNext : Host.Outcome State Fault Refusal → Bool
  | .next _ => true
  | .fault _ => false
  | .refused _ => false

/-! ### Requests (R59) -/

theorem test_wf_crc8 : Request.wellFormed ⟨.crc8, .none⟩ = false ∧
    Request.wellFormed ⟨.crc8, .data []⟩ = true := by decide
theorem test_wf_crc16 : Request.wellFormed ⟨.crc16, .toggle true⟩ = false ∧
    Request.wellFormed ⟨.crc16, .data [1#8]⟩ = true := by decide
theorem test_wf_buildFrame : Request.wellFormed ⟨.buildFrame, .data [1#8]⟩ = false ∧
    Request.wellFormed ⟨.buildFrame, .descriptor 1#8 2#8 3#8 none⟩ = true := by decide
theorem test_wf_isDeltaModel : Request.wellFormed ⟨.isDeltaModel, .toggle true⟩ = false ∧
    Request.wellFormed ⟨.isDeltaModel, .product (-1)⟩ = true := by decide
theorem test_wf_acSwitch : Request.wellFormed ⟨.acSwitch, .product 1⟩ = false ∧
    Request.wellFormed ⟨.acSwitch, .toggle false⟩ = true := by decide
theorem test_wf_getPd : Request.wellFormed ⟨.getPd, .data []⟩ = false ∧
    Request.wellFormed ⟨.getPd, .none⟩ = true := by decide
theorem test_wf_getDcInType :
    Request.wellFormed ⟨.getDcInType, .descriptor 1#8 2#8 3#8 none⟩ = false ∧
    Request.wellFormed ⟨.getDcInType, .product 14⟩ = true := by decide
theorem test_wf_getDcInCurrent : Request.wellFormed ⟨.getDcInCurrent, .none⟩ = false ∧
    Request.wellFormed ⟨.getDcInCurrent, .product 16⟩ = true := by decide

/-! ### Decoding: the words of spec/30_encoding.md R59, written bit by bit -/

theorem test_decode_crc8 : decode [0b00000001#8] = .ok (.crc8, []) := by rfl
theorem test_decode_crc16 : decode [0b00000010#8] = .ok (.crc16, []) := by rfl
theorem test_decode_buildFrame : decode [0b00000011#8] = .ok (.buildFrame, []) := by rfl
theorem test_decode_isDeltaModel : decode [0b00010000#8] = .ok (.isDeltaModel, []) := by rfl
theorem test_decode_acSwitch : decode [0b00010001#8] = .ok (.acSwitch, []) := by rfl
theorem test_decode_getPd : decode [0b00010010#8] = .ok (.getPd, []) := by rfl
theorem test_decode_getDcInType : decode [0b00010011#8] = .ok (.getDcInType, []) := by rfl
theorem test_decode_getDcInCurrent :
    decode [0b00010100#8, 0xFF#8] = .ok (.getDcInCurrent, [0xFF#8]) := by rfl

/-- VE-6. -/
theorem test_decode_refuses :
    decode [0x00#8] = .error (.noSuchOperation 0x00#8) ∧
    decode [0x04#8] = .error (.noSuchOperation 0x04#8) ∧
    decode [0x0F#8] = .error (.noSuchOperation 0x0F#8) ∧
    decode [0x15#8] = .error (.noSuchOperation 0x15#8) ∧
    decode [0xFF#8] = .error (.noSuchOperation 0xFF#8) ∧ decode [] = .error .noByte :=
  ⟨rfl, rfl, rfl, rfl, rfl, rfl⟩

/-- R63: the document's spelling names the same operation as the mnemonic. -/
theorem test_spellings : instrOfName "get_pd" = some .getPd ∧ instrOfName "GET_PD" = some .getPd ∧
    instrOfName "is_delta_model" = some .isDeltaModel ∧ instrOfName "get_ac" = none := by decide

/-- The host's two questions, of every row of spec/opcode_table.json. -/
theorem test_fetch_runs :
    [0x01, 0x02, 0x03, 0x10, 0x11, 0x12, 0x13, 0x14].all (fun w =>
      (decodeTableWord 8 w).isSome && isNext (step (State.reset.withFetchWord 8 w))) = true := by rfl

/-! ### The operations -/

/-- V8-25, under `T8_P07`. -/
theorem test_crc8_header :
    (crc8Steps p07Params (holding [0xAA#8, 0x02#8, 0x01#8, 0x00#8]).issue).outBytes = [0xA0#8] := by
  decide +kernel
/-- V8-15 and V8-16: the order of the bytes shows under `T8_P07`, not under `T8_ID`. -/
theorem test_crc8_order :
    (crc8Steps p07Params (holding [0x01#8, 0x00#8]).issue).outBytes = [0x15#8] ∧
    (crc8Steps p07Params (holding [0x00#8, 0x01#8]).issue).outBytes = [0x07#8] ∧
    (crc8Steps idParams (holding [0x01#8, 0x00#8]).issue).outBytes = [0x01#8] := by decide +kernel

/-- V16-10. -/
theorem test_crc16_check :
    (crc16Steps idParams (holding [0x31#8, 0x32#8, 0x33#8, 0x34#8, 0x35#8, 0x36#8, 0x37#8, 0x38#8,
      0x39#8]).issue).outBytes = [0x3D#8, 0xBB#8] := by decide +kernel
/-- V16-1 and V16-3: the initial value, and the order of delivery. -/
theorem test_crc16_low_first :
    (crc16Steps idParams (holding [0x01#8]).issue).outBytes = [0xC1#8, 0xC0#8] ∧
    (crc16Steps idParams (holding []).issue).outBytes = [0x00#8, 0x00#8] := by decide +kernel

/-- VF-12: nothing is escaped. -/
theorem test_buildFrame :
    (frameSteps p07Params loaded.issue).outBytes =
      [0xAA#8, 0x02#8, 0x01#8, 0x00#8, 0xA0#8, 0x0D#8, 0x00#8, 0x00#8, 0x00#8, 0x00#8, 0x00#8, 0x00#8,
       0x20#8, 0x10#8, 0x20#8, 0x30#8, 0xAA#8, 0x63#8, 0x21#8] := by decide +kernel
/-- VE-2. -/
theorem test_buildFrame_overlong :
    exec .buildFrame overlong = .next { overlong with
      status := ⟨true, true⟩, raised := some (.payloadTooLarge 65536) } := by rfl

/-- S5 and spec/95_test_vectors.md section 6: the bounds, and no wrap-around. -/
theorem test_isDeltaModel :
    [-1, 0, 11, 12, 13, 14, 15, 16, 17, 65536, 2 ^ 64 + 14].map isDelta =
      [false, false, false, false, true, true, true, false, false, false, false] := by decide
/-- Program 2, call 3: the result is in `PRED`, and `WP` stays 0. -/
theorem test_isDeltaModel_result :
    exec .isDeltaModel ((ended []).present (.product 13)) = .next
      { (ended []).present (.product 13) with pred := true, wp := 0 } := by rfl

/-- VC-1, with the end state of Program 1. -/
theorem test_acSwitch_on :
    let t := catalogSteps p07Params State.reset.issue (acSwitchDescriptor true)
    t.outBytes = [0xAA#8, 0x02#8, 0x07#8, 0x00#8, 0xDE#8, 0x0D#8, 0x00#8, 0x00#8, 0x00#8, 0x00#8,
      0x00#8, 0x00#8, 0x20#8, 0x04#8, 0x20#8, 0x42#8, 0x01#8, 0xFF#8, 0xFF#8, 0xFF#8, 0xFF#8, 0xFF#8,
      0xFF#8, 0x3E#8, 0x28#8] ∧
    (t.acc8, t.acc16, t.wp, t.rp, t.status) = (0xDE#8, 0x283E#16, 25, 7, ⟨true, false⟩) := by
  decide +kernel
/-- VC-2, under `T8_ID`. -/
theorem test_acSwitch_off :
    (catalogSteps idParams State.reset.issue (acSwitchDescriptor false)).outBytes =
      [0xAA#8, 0x02#8, 0x07#8, 0x00#8, 0xAF#8, 0x0D#8, 0x00#8, 0x00#8, 0x00#8, 0x00#8, 0x00#8, 0x00#8,
       0x20#8, 0x04#8, 0x20#8, 0x42#8, 0x00#8, 0xFF#8, 0xFF#8, 0xFF#8, 0xFF#8, 0xFF#8, 0xFF#8, 0x49#8,
       0xDF#8] := by decide +kernel

/-- VC-3. -/
theorem test_getPd :
    (catalogSteps p07Params State.reset.issue getPdDescriptor).outBytes =
      [0xAA#8, 0x02#8, 0x01#8, 0x00#8, 0xA0#8, 0x0D#8, 0x00#8, 0x00#8, 0x00#8, 0x00#8, 0x00#8, 0x00#8,
       0x20#8, 0x02#8, 0x20#8, 0x02#8, 0x00#8, 0xF3#8, 0x46#8] := by decide +kernel
/-- VE-8: after `ac_switch(true)` the result is VC-3 exactly (under `T8_ID`). -/
theorem test_getPd_after_acSwitch :
    (catalogSteps idParams (catalogSteps idParams State.reset.issue (acSwitchDescriptor true)).issue
      getPdDescriptor).outBytes =
      [0xAA#8, 0x02#8, 0x01#8, 0x00#8, 0xA9#8, 0x0D#8, 0x00#8, 0x00#8, 0x00#8, 0x00#8, 0x00#8, 0x00#8,
       0x20#8, 0x02#8, 0x20#8, 0x02#8, 0x00#8, 0xEE#8, 0x8F#8] := by decide +kernel

/-- VC-4, and VC-7 for 13. -/
theorem test_getDcInType_delta :
    [14, 13].map (fun n => (querySteps p07Params (State.reset.present (.product n)).issue
      dcInTypeDelta dcInTypeOther).outBytes.drop 13) =
      [[0x05#8, 0x20#8, 0x52#8, 0x00#8, 0xCE#8, 0x32#8],
       [0x05#8, 0x20#8, 0x52#8, 0x00#8, 0xCE#8, 0x32#8]] := by decide +kernel
/-- VC-5, and VC-6 for 16. -/
theorem test_getDcInType_other :
    [10, 16].map (fun n => (querySteps p07Params (State.reset.present (.product n)).issue
      dcInTypeDelta dcInTypeOther).outBytes.drop 13) =
      [[0x04#8, 0x20#8, 0x44#8, 0x00#8, 0xC1#8, 0xAE#8],
       [0x04#8, 0x20#8, 0x44#8, 0x00#8, 0xC1#8, 0xAE#8]] := by decide +kernel

/-- Section 6: between 14 and 10 the frame differs in byte 13 (and in the CRC-16) only. The constants are
the fixture's. -/
theorem test_getDcInCurrent :
    let f (n : Int) := (querySteps p07Params (State.reset.present (.product n)).issue
      (dcInCurrentDelta p07Params) (dcInCurrentOther p07Params)).outBytes
    (f 14).take 13 = (f 10).take 13 ∧ ((f 14).drop 13).take 4 = [0x51#8, 0x21#8, 0x71#8, 0x99#8] ∧
    ((f 10).drop 13).take 4 = [0x41#8, 0x21#8, 0x71#8, 0x99#8] := by decide +kernel

/-- The self-checks of R114. -/
theorem test_t16Arc :
    ((List.range 256).map (fun i => t16Arc (BitVec.ofNat 8 i))).foldl (· ^^^ ·) 0#16 = 0#16 ∧
    ((List.range 256).map (fun i => (t16Arc (BitVec.ofNat 8 i)).toNat)).sum = 8380544 ∧
    t16Arc 1#8 = 0xC0C1#16 ∧ t16Arc 0x80#8 = 0xA001#16 ∧ t16Arc 0xFF#8 = 0x4040#16 := by
  decide +kernel

/-- Row 0xF0 of the table of `T8_P07`: the fixture is the spec's. -/
theorem test_t8P07 : [0xF0#8, 0xF1#8, 0xFE#8, 0xFF#8].map t8P07 = [0xDE#8, 0xD9#8, 0xF4#8, 0xF3#8] := by
  decide

/-! ### The buffers and the caller -/

theorem test_write_keeps_order :
    (((State.reset.inBuf.write 2 0x02#8).write 0 0x00#8).write 2 0x07#8) = [(0, 0x00#8), (2, 0x07#8)] := by
  decide

/-- R22: a byte below `ILEN` that holds no value is a fault of the model. -/
theorem test_unlisted_input :
    exec .crc16 { State.reset with ilen := 1 } = .fault (.inputUnlisted 0) := by rfl

/-- R22, U6: a read of `OUT` at or above `WP` is a fault, never a value. -/
theorem test_readOut :
    step (ended [.readOut 1]) = .next (ended []) ∧
    step (ended [.readOut 2]) = .fault (.outReadOutOfRange 2) := ⟨rfl, rfl⟩

/-- R22, R167 c: a micro-step whose read is out of range is a fault, and never goes on. -/
theorem test_microStep_faults :
    microStep idParams { doing [.cg8Input] with rp := 1 } = .fault (.inputUnlisted 1) ∧
    microStep idParams { doing [.copyInput] with ilen := 2, rp := 1 } = .fault (.inputUnlisted 1) ∧
    microStep idParams (doing [.cg16Output 1]) = .fault (.outReadOutOfRange 1) := ⟨rfl, rfl, rfl⟩

/-- notes/assumptions/23.md: a wait on a block where nothing was ever issued ends at once, at `DONE = 0`. -/
theorem test_wait_after_reset : step (scripted [.wait]) = .next State.reset ∧
    State.reset.status.done = false := ⟨rfl, rfl⟩

/-! ### Witnesses -/

theorem witness_unnamedOp : 0x04#8 ∉ [0x01#8, 0x02#8, 0x03#8, 0x10#8, 0x11#8, 0x12#8, 0x13#8, 0x14#8] ∧
    (scripted [.call 0x04#8]).busy = false ∧ (scripted [.call 0x04#8]).script = [.call 0x04#8] ∧
    (scripted [.issue 0x15#8]).busy = false ∧ (scripted [.issue 0x15#8]).script = [.issue 0x15#8] := by
  decide
theorem witness_mnemonic : "GET_AC" ∉ ["CRC8", "CRC16", "BUILD_FRAME", "IS_DELTA_MODEL", "AC_SWITCH",
    "GET_PD", "GET_DC_IN_TYPE", "GET_DC_IN_CURRENT", "crc8", "crc16", "build_frame", "is_delta_model",
    "ac_switch", "get_pd", "get_dc_in_type"] := by decide
theorem witness_idle : (loaded.busy = false) ∧ loaded.script = [] := by decide
theorem witness_reset : (underWay [.reset]).script = [.reset] ∧ (underWay [.reset]).busy = true :=
  ⟨rfl, rfl⟩

theorem listed_loaded : loaded.InputListed := by unfold State.InputListed; decide
theorem listed_holding : (holding [0x01#8, 0x02#8]).InputListed := by unfold State.InputListed; decide
theorem listed_empty : (holding []).InputListed := by unfold State.InputListed; decide

/-- A sound idle state whose next move is the call of `BUILD_FRAME`. -/
def sound : State := loaded.setScript [.call 0x03#8]
theorem witness_inv : sound.Inv :=
  ⟨by decide, by decide, listed_loaded, by unfold State.OutputListed; decide,
   by unfold State.StatusLegal; decide, by unfold State.BusyNotDone; decide⟩
theorem witness_inv_step : ∃ t, step sound = .next t := ⟨_, rfl⟩
theorem witness_dutiful : sound.busy = false ∧ sound.script = [.call 0x03#8] ∧
    dutiful (.call 0x03#8) = true := by decide

theorem witness_call : sound.busy = false ∧ sound.script = [.call 0x03#8] ∧
    decodeOp 0x03#8 = some .buildFrame := by decide
/-- The second state has no byte of its input there. -/
theorem witness_issue : (loaded.setScript [.issue 0x03#8]).busy = false ∧
    (loaded.setScript [.issue 0x03#8]).script = [.issue 0x03#8] ∧
    (overlong.setScript [.issue 0x02#8]).busy = false ∧
    (overlong.setScript [.issue 0x02#8]).script = [.issue 0x02#8] ∧
    decodeOp 0x03#8 = some .buildFrame ∧ decodeOp 0x02#8 = some .crc16 :=
  ⟨rfl, rfl, rfl, rfl, rfl, rfl⟩
theorem witness_wait_none : (underWay []).script = [] := rfl
theorem witness_wait_busy : (underWay [.wait]).script = [.wait] ∧ (underWay [.wait]).busy = true :=
  ⟨rfl, rfl⟩
theorem witness_wait_idle : (ended [.wait]).script = [.wait] ∧ (ended [.wait]).busy = false := by decide
theorem witness_busy_call : (underWay [.call 0x01#8]).busy = true ∧
    (underWay [.call 0x01#8]).script = [.call 0x01#8] ∧ (underWay [.issue 0x99#8]).busy = true ∧
    (underWay [.issue 0x99#8]).script = [.issue 0x99#8] := ⟨rfl, rfl, rfl, rfl⟩
theorem witness_present : (scripted [.present (.data [0x07#8])]).busy = false ∧
    (scripted [.present (.data [0x07#8])]).script = [.present (.data [0x07#8])] := by decide
theorem witness_busy_present : (underWay [.present (.toggle true)]).busy = true ∧
    (underWay [.present (.toggle true)]).script = [.present (.toggle true)] := ⟨rfl, rfl⟩

theorem witness_readOut_ok : (ended [.readOut 1]).script = [.readOut 1] ∧
    (ended [.readOut 1]).status = ⟨true, false⟩ ∧ (ended [.readOut 1]).OutputListed ∧
    1 < (ended [.readOut 1]).wp :=
  ⟨rfl, rfl, by unfold State.OutputListed; decide, by decide⟩
theorem witness_readOut_out : (ended [.readOut 2]).status = ⟨true, false⟩ ∧
    (ended [.readOut 2]).wp ≤ 2 := by decide
theorem witness_readOut_none : (scripted [.readOut 0]).script = [.readOut 0] ∧
    (scripted [.readOut 0]).status ≠ ⟨true, false⟩ := by decide
theorem witness_readPred_ok :
    let s : State := { scripted [.readPred] with status := ⟨true, false⟩ }
    s.script = [.readPred] ∧ s.status = ⟨true, false⟩ ∧ s.wp = 0 := by decide
theorem witness_readPred_none : (ended [.readPred]).script = [.readPred] ∧
    ¬((ended [.readPred]).status = ⟨true, false⟩ ∧ (ended [.readPred]).wp = 0) := by decide
theorem witness_result_stays : (ended [.readOut 1]).busy = false ∧
    step (ended [.readOut 1]) = .next (ended []) := ⟨rfl, rfl⟩

theorem witness_crc8 : ∃ t, exec .crc8 (holding [0x01#8, 0x02#8]) = .next t := ⟨_, rfl⟩
theorem witness_crc8_one : (holding []).inBytes = [] ∧ (holding [0x07#8]).inBytes = [0x07#8] := by decide
theorem witness_crc16 : ∃ t, exec .crc16 (holding [0x01#8, 0x02#8]) = .next t := ⟨_, rfl⟩
theorem witness_equal_length : [0x01#8, 0x02#8].length = [0xFF#8, 0x00#8].length := rfl
theorem witness_arc : p07Params.table16 = t16Arc := rfl

/-- The two ends of the range of `N`. -/
theorem witness_lengths : (⟨1#8, 2#8, 3#8, []⟩ : Descriptor).payload.length ≤ 65535 ∧
    (⟨1#8, 2#8, 3#8, List.replicate 65535 0xA5#8⟩ : Descriptor).payload.length ≤ 65535 :=
  ⟨by decide, by rw [List.length_replicate]⟩
theorem witness_header : p07Params.table8 = (⟨t8P07, fun _ => 0#16, 0, 0, 0, 0, []⟩ : Params).table8 ∧
    (⟨0xFF#8, 0xFF#8, 0xFF#8, [1#8]⟩ : Descriptor).payload.length = [0xAA#8].length := ⟨rfl, rfl⟩

/-- The `WP` at which each step of the assembler starts, on a payload of one byte. -/
theorem witness_steps :
    let s0 := loaded.issue
    let s2 := faStep2 (faStep1 s0)
    let s3 := faStep3 idParams s2
    let s5 := faStep5 (faStep4 s3)
    s0.wp = 0 ∧ (faStep1 s0).wp = 2 ∧ (faStep1 s0).ilen ≤ 65535 ∧ s2.wp = 4 ∧ s3.wp = 5 ∧
    (faStep4 s3).wp = 13 ∧ s5.wp = 16 ∧ s5.rp = 0 ∧ (faStep6 s5).wp = 16 + (faStep6 s5).ilen := by
  decide +kernel
theorem witness_step6_listed :
    (faStep5 (faStep4 (faStep3 idParams (faStep2 (faStep1 loaded.issue))))).InputListed :=
  listed_loaded
theorem witness_step2_longest : ({ State.reset with wp := 2, ilen := 65535 } : State).wp = 2 ∧
    ({ State.reset with wp := 2, ilen := 65535 } : State).ilen ≤ 65535 := by decide

theorem witness_build : loaded.ilen ≤ 65535 ∧ ∃ t, exec .buildFrame loaded = .next t :=
  ⟨by decide, _, rfl⟩
/-- The upper end of the range: a payload of 65535 bytes, all there. -/
theorem witness_build_longest : (holding (List.replicate 65535 0xA5#8)).InputListed ∧
    (holding (List.replicate 65535 0xA5#8)).ilen ≤ 65535 :=
  ⟨State.inputListed_writeInput _ _, Nat.le_of_eq List.length_replicate⟩
theorem witness_build_overlong : 65535 < overlong.ilen := by decide
theorem witness_catalog : (∃ t, exec .acSwitch State.reset = .next t) ∧
    (∃ t, exec .getPd State.reset = .next t) ∧ (∃ t, exec .getDcInType State.reset = .next t) ∧
    (∃ t, exec .getDcInCurrent State.reset = .next t) ∧ ∃ t, exec .isDeltaModel State.reset = .next t :=
  ⟨⟨_, rfl⟩, ⟨_, rfl⟩, ⟨_, rfl⟩, ⟨_, rfl⟩, ⟨_, rfl⟩⟩
/-- Which clause of the statement about `GET_DC_IN_CURRENT` applies is as open as `DCCUR_PAYLOAD`; one of
them does. -/
theorem witness_dcCurrent : Config.dccurPayload.length ≤ 65535 ∨ 65535 < Config.dccurPayload.length :=
  Nat.lt_or_ge 65535 _ |>.symm
/-- Two states that agree in the operand and in nothing else that matters. -/
theorem witness_carries : (ended []).argState = State.reset.argState ∧ ended [] ≠ State.reset ∧
    ∃ t t', exec .acSwitch (ended []) = .next t ∧ exec .acSwitch State.reset = .next t' :=
  ⟨rfl, by decide, _, _, rfl, rfl⟩

theorem witness_micro_run :
    ∃ t, microRun idParams 3 (State.start idParams .crc8 (holding [0x01#8, 0x02#8])) = .next t := ⟨_, rfl⟩
theorem witness_exec_fault : exec .buildFrame { State.reset with ilen := 2 } =
    .fault (.inputUnlisted 0) := by rfl
theorem witness_issued_ends : (loaded.setScript [.issue 0x03#8]).busy = false ∧
    (loaded.setScript [.issue 0x03#8]).script = [.issue 0x03#8] ∧
    ∃ t, exec .buildFrame ((loaded.setScript [.issue 0x03#8]).setScript []) = .next t :=
  ⟨rfl, rfl, _, rfl⟩
theorem witness_request :
    let r : Request := ⟨.crc8, .data [0x07#8]⟩
    r.wellFormed = true ∧ (scripted (r.moves ++ [.readOut 0])).busy = false ∧
    (scripted (r.moves ++ [.readOut 0])).script = r.moves ++ [.readOut 0] := by decide
/-- Reads at the first index out of range, and at the last one in range. -/
theorem witness_micro_reads :
    let s : State := { doing [.cg16Input] with rp := 1 }
    s.todo = [.cg16Input] ∧ s.ilen ≤ s.rp ∧
    (doing [.cg8Output 1]).todo = [.cg8Output 1] ∧ (doing [.cg8Output 1]).wp ≤ 1 ∧
    ¬((doing [.cg8Input]).ilen ≤ (doing [.cg8Input]).rp ∨
      (doing [.cg8Input]).inBuf.read (doing [.cg8Input]).rp = none) ∧
    ¬((doing [.cg8Output 0]).wp ≤ 0 ∨ (doing [.cg8Output 0]).outBuf.read 0 = none) := by decide
theorem witness_front_end :
    (∃ t, microStep idParams (doing [.writeDescriptor getPdDescriptor]) = .next t) ∧
    (∃ t, microStep idParams (doing [.chooseDescriptor dcInTypeDelta dcInTypeOther]) = .next t) ∧
    ∃ t, microStep idParams (doing [.cg16Output 0, .emitAcc16Low]) = .next t :=
  ⟨⟨_, rfl⟩, ⟨_, rfl⟩, ⟨_, rfl⟩⟩

end Sys2Proof.Tests
end

section
/-! SUPPORT. What an operation that ends delivers: the result, and `WP` and `STATUS` with it, as a
function of the operands the operation takes. -/

namespace Sys2Proof.Machine

/-! ### A result and the registers that go with it -/

/-- `WP` at the end of an operation with this result: the number of bytes delivered (R92, R164). -/
def Result.wp : Result → Nat
  | .bytes bs => bs.length
  | .predicate _ => 0
  | .error _ => 0

/-- `STATUS` at the end of an operation with this result (R15, R92, R164). -/
def Result.status : Result → Status
  | .bytes _ => ⟨true, false⟩
  | .predicate _ => ⟨true, false⟩
  | .error _ => ⟨true, true⟩

/-- In `t` an operation has ended with the result `r`. -/
structure State.Delivers (t : State) (r : Result) : Prop where
  /-- The caller is offered `r`. -/
  result : t.result = some r
  /-- `WP` goes with it. -/
  wp : t.wp = r.wp
  /-- `STATUS` goes with it. -/
  status : t.status = r.status

theorem State.delivers_bytes {t : State} {bs : List Byte} (hst : t.status = ⟨true, false⟩)
    (hout : t.outBytes = bs) (hw : t.wp = bs.length) (hne : bs ≠ []) : t.Delivers (.bytes bs) where
  result := by simp [State.result, hst, hw, hne, hout]
  wp := hw
  status := hst

theorem State.delivers_predicate {t : State} (hst : t.status = ⟨true, false⟩) (hw : t.wp = 0) :
    t.Delivers (.predicate t.pred) where
  result := by simp [State.result, hst, hw]
  wp := hw
  status := hst

theorem State.delivers_raisePayloadTooLarge {s : State} (hw : s.wp = 0) (n : Nat) :
    (s.raisePayloadTooLarge n).Delivers (.error (.payloadTooLarge n)) :=
  ⟨rfl, hw, rfl⟩

/-! ### The state an operation starts from -/

/-- The counters and the status are as the issue leaves them (R91). -/
structure State.Issued (s : State) : Prop where
  /-- Nothing has been appended. -/
  wp : s.wp = 0
  /-- Nothing has been read. -/
  rp : s.rp = 0
  /-- Nothing has ended. -/
  status : s.status = ⟨false, false⟩

theorem State.issued_issue (s : State) : s.issue.Issued := ⟨rfl, rfl, rfl⟩

theorem State.Issued.evalPredicate {s : State} (h : s.Issued) : s.evalPredicate.Issued :=
  ⟨h.wp, h.rp, h.status⟩

theorem State.Issued.writeDescriptor {s : State} (h : s.Issued) (d : Descriptor) :
    (s.writeDescriptor d).Issued :=
  ⟨h.wp, h.rp, h.status⟩

theorem State.Issued.outBytes {s : State} (h : s.Issued) : s.outBytes = [] := by
  simp [State.outBytes, h.wp]

/-- An operation that reads its input goes on only when no byte is missing. -/
theorem whenReadable_eq_next_iff {missing : Option Nat} {t u : State} :
    whenReadable missing t = .next u ↔ missing = none ∧ t = u := by
  cases missing <;> simp [whenReadable]

/-- `missingPayload` finds nothing exactly when the input is there or is too long to be read (R163). -/
theorem State.missingPayload_eq_none_iff (s : State) :
    s.missingPayload = none ↔ s.InputListed ∨ maxPayload < s.ilen := by
  refine ⟨fun h => ?_, State.missingPayload_eq_none⟩
  unfold State.missingPayload at h
  split at h
  · exact .inr ‹_›
  · exact .inl (s.missingInput_eq_none_iff.1 h)

/-! ### What each kind of operation delivers -/

theorem crc8Steps_delivers (p : Params) {s : State} (hi : s.Issued) (hl : s.InputListed) :
    (crc8Steps p s).Delivers (.bytes [crc8 p.table8 s.inBytes]) := by
  rw [crc8Steps_eq p hl hi.rp]
  refine State.delivers_bytes ?_ ?_ ?_ (by simp)
  · simp [State.emitAcc8, hi.status]
  · exact (State.outBytes_emit _ _).trans (congrArg (· ++ _) hi.outBytes)
  · simp [State.emitAcc8, hi.wp]

theorem crc16Steps_delivers (p : Params) {s : State} (hi : s.Issued) (hl : s.InputListed) :
    (crc16Steps p s).Delivers (.bytes (le16 (crc16 p.table16 s.inBytes))) := by
  rw [crc16Steps_eq p hl hi.rp]
  refine State.delivers_bytes ?_ ?_ ?_ (by simp [le16])
  · simp [State.emitAcc16Low, State.emitAcc16High, hi.status]
  · exact (State.outBytes_emitSeq _ (le16 _)).trans (congrArg (· ++ _) hi.outBytes)
  · simp [State.emitAcc16Low, State.emitAcc16High, le16, hi.wp]

/-- What `BUILD_FRAME` delivers. The length is `ILEN`, which also counts bytes of `IN` that hold no value:
with an over-long payload none is read (R160, R163). -/
def State.frameResult (p : Params) (s : State) : Result :=
  if 65535 < s.ilen then .error (.payloadTooLarge s.ilen) else .bytes (frame p s.descriptor)

/-- With the input there, `BUILD_FRAME` delivers the functional model's result. -/
theorem State.frameResult_eq_buildFrame (p : Params) {s : State} (hl : s.InputListed) :
    s.frameResult p = buildFrame p s.descriptor := by
  have hN : s.descriptor.payload.length = s.ilen := hl.length_inBytes
  rw [State.frameResult, buildFrame, hN, maxPayload]

theorem frameSteps_delivers (p : Params) {s : State} (hi : s.Issued)
    (h : s.InputListed ∨ maxPayload < s.ilen) : (frameSteps p s).Delivers (s.frameResult p) := by
  unfold State.frameResult
  split
  case isTrue hgt =>
    rw [frameSteps_of_gt p hgt]
    exact State.delivers_raisePayloadTooLarge hi.wp s.ilen
  case isFalse hle =>
    have hl : s.InputListed := h.resolve_right hle
    have hN : s.descriptor.payload.length = s.ilen := hl.length_inBytes
    have hlen : (frame p s.descriptor).length = 18 + s.ilen := by rw [length_frame, hN]
    rw [frameSteps_of_le p hl (Nat.le_of_not_lt hle) hi.wp hi.rp]
    refine State.delivers_bytes ?_ (State.framed_outBytes p hl) ?_
      (List.ne_nil_of_length_pos (by omega))
    · rw [State.framed, hi.status]
    · rw [hlen, State.framed]

/-- A catalog operation delivers the frame of its descriptor (R139), whatever stood in the registers. -/
theorem catalogSteps_delivers (p : Params) {s : State} (hi : s.Issued) (d : Descriptor) :
    (catalogSteps p s d).Delivers (buildFrame p d) := by
  have hl := s.inputListed_writeDescriptor d
  have h := frameSteps_delivers p (hi.writeDescriptor d) (.inl hl)
  rwa [State.frameResult_eq_buildFrame p hl, State.descriptor_writeDescriptor] at h

theorem querySteps_delivers (p : Params) {s : State} (hi : s.Issued) (delta other : Descriptor) :
    (querySteps p s delta other).Delivers
      (buildFrame p (if isDelta s.argPcode then delta else other)) :=
  catalogSteps_delivers p hi.evalPredicate _

/-- What operation `i` delivers from `s`: the functional model's result, except that a frame's length is
`ILEN` itself (`State.frameResult`). -/
def State.delivered (i : Instr) (s : State) : Result :=
  match i with
  | .buildFrame => s.frameResult Config.params
  | i => opResult Config.params i s.operandValues

/-- Every operation that answers a next state has delivered (R92). -/
theorem exec_delivers {i : Instr} {s t : State} (h : exec i s = .next t) :
    t.Delivers (s.delivered i) := by
  have hi := s.issued_issue
  cases i with
  | crc8 =>
    obtain ⟨hm, rfl⟩ := whenReadable_eq_next_iff.1 h
    exact crc8Steps_delivers Config.params hi (s.missingInput_eq_none_iff.1 hm)
  | crc16 =>
    obtain ⟨hm, rfl⟩ := whenReadable_eq_next_iff.1 h
    exact crc16Steps_delivers Config.params hi (s.missingInput_eq_none_iff.1 hm)
  | buildFrame =>
    obtain ⟨hm, rfl⟩ := whenReadable_eq_next_iff.1 h
    exact frameSteps_delivers Config.params hi (s.missingPayload_eq_none_iff.1 hm)
  | isDeltaModel =>
    obtain rfl := Host.Outcome.next.inj h
    exact State.delivers_predicate rfl rfl
  | acSwitch =>
    obtain rfl := Host.Outcome.next.inj h
    exact catalogSteps_delivers Config.params hi _
  | getPd =>
    obtain rfl := Host.Outcome.next.inj h
    exact catalogSteps_delivers Config.params hi _
  | getDcInType =>
    obtain rfl := Host.Outcome.next.inj h
    exact querySteps_delivers Config.params hi _ _
  | getDcInCurrent =>
    obtain rfl := Host.Outcome.next.inj h
    exact querySteps_delivers Config.params hi _ _

/-! ### The statement -/

/-- Settles O48: what is delivered is `State.delivered`, which reads only the operands the operation takes;
the result, `WP` and `STATUS` are functions of it. -/
theorem nothingCarriesOver : Obligations.NothingCarriesOver := by
  intro i s s' t t' hops h h'
  have hd := exec_delivers h
  have hd' := exec_delivers h'
  have heq : s.delivered i = s'.delivered i := by
    cases i with
    | crc8 => exact congrArg (fun bs => Result.bytes [crc8 Config.params.table8 bs]) hops.2
    | crc16 => exact congrArg (fun bs => Result.bytes (le16 (crc16 Config.params.table16 bs))) hops.2
    | buildFrame =>
      obtain ⟨hlen, hdesc⟩ := hops
      simp only [State.delivered, State.frameResult, hlen, hdesc]
    | isDeltaModel => exact congrArg (fun c => Result.predicate (isDelta c)) hops
    | acSwitch => exact congrArg (fun on => buildFrame Config.params (acSwitchDescriptor on)) hops
    | getPd => rfl
    | getDcInType =>
      exact congrArg (fun c => buildFrame Config.params
        (if isDelta c then dcInTypeDelta else dcInTypeOther)) hops
    | getDcInCurrent =>
      exact congrArg (fun c => buildFrame Config.params
        (if isDelta c then dcInCurrentDelta Config.params else dcInCurrentOther Config.params)) hops
  rw [heq] at hd
  exact ⟨hd.result.trans hd'.result.symm, hd.wp.trans hd'.wp.symm, hd.status.trans hd'.status.symm⟩

end Sys2Proof.Machine
end

section
/-! SUPPORT. The state in which an operation ends, in closed form, said once for all eight operations
(`Ends`, `ends_of_exec`), and the one way an operation stops without an end (`whenReadable_cases`). -/

namespace Sys2Proof.Machine

/-- A byte sequence written from index 0 leaves every index above it as it was. -/
theorem Memory.read_writeAll_above (m : Memory) (bs : List Byte) {a : Nat} (h : bs.length ≤ a) :
    (m.writeAll 0 bs).read a = m.read a := by
  rw [Memory.read_writeAll, if_neg (by omega)]

/-! ### The end states -/

/-- The state in which `CRC8` has ended (R100). -/
def State.crc8Ended (p : Params) (s : State) : State :=
  { s with acc8 := crc8 p.table8 s.inBytes
           outBuf := s.outBuf.writeAll 0 [crc8 p.table8 s.inBytes], wp := 1
           rp := s.ilen, stepReg := 0, status := ⟨true, false⟩, raised := none, todo := [] }

/-- The state in which `CRC16` has ended (R110). -/
def State.crc16Ended (p : Params) (s : State) : State :=
  { s with acc16 := crc16 p.table16 s.inBytes
           outBuf := s.outBuf.writeAll 0 (le16 (crc16 p.table16 s.inBytes)), wp := 2
           rp := s.ilen, stepReg := 0, status := ⟨true, false⟩, raised := none, todo := [] }

/-- The state in which `BUILD_FRAME` has ended, from the issued state: the frame or the error (R120). -/
def State.frameEnded (p : Params) (s : State) : State :=
  if 65535 < s.ilen then s.raisePayloadTooLarge s.ilen else s.framed p

theorem crc8Steps_issue (p : Params) {s : State} (h : s.InputListed) :
    crc8Steps p s.issue = s.crc8Ended p := by
  have hi : s.issue.InputListed := h
  rw [crc8Steps_eq p hi rfl]
  rfl

theorem crc16Steps_issue (p : Params) {s : State} (h : s.InputListed) :
    crc16Steps p s.issue = s.crc16Ended p := by
  have hi : s.issue.InputListed := h
  rw [crc16Steps_eq p hi rfl]
  rfl

theorem frameSteps_eq_frameEnded (p : Params) {s : State} (hi : s.Issued)
    (h : s.InputListed ∨ 65535 < s.ilen) : frameSteps p s = s.frameEnded p := by
  unfold State.frameEnded
  split
  case isTrue hgt => exact frameSteps_of_gt p hgt
  case isFalse hle =>
    exact frameSteps_of_le p (h.resolve_right hle) (Nat.le_of_not_lt hle) hi.wp hi.rp

/-! ### The catalog -/

/-- The descriptor a catalog operation builds its frame of, if it builds one (R141 to R144). -/
def catalogDescriptor (p : Params) (i : Instr) (s : State) : Option Descriptor :=
  match i with
  | .acSwitch => some (acSwitchDescriptor s.argState)
  | .getPd => some getPdDescriptor
  | .getDcInType => some (if isDelta s.argPcode then dcInTypeDelta else dcInTypeOther)
  | .getDcInCurrent =>
    some (if isDelta s.argPcode then dcInCurrentDelta p else dcInCurrentOther p)
  | .crc8 | .crc16 | .buildFrame | .isDeltaModel => none

/-- The operations that evaluate the predicate (R18). -/
def writesPred (i : Instr) : Bool :=
  match i with
  | .isDeltaModel | .getDcInType | .getDcInCurrent => true
  | .crc8 | .crc16 | .buildFrame | .acSwitch | .getPd => false

/-- `PRED` as operation `i` leaves it (R18). -/
def State.predAfter (i : Instr) (s : State) : Bool := if writesPred i then isDelta s.argPcode else s.pred

/-- The state from which a catalog operation goes on as `BUILD_FRAME`: issued, the predicate evaluated if
the operation does so, and the descriptor written (R139). -/
def State.catalogReady (i : Instr) (s : State) (d : Descriptor) : State :=
  (s.issue.setPred (s.predAfter i)).writeDescriptor d

theorem State.issued_catalogReady (i : Instr) (s : State) (d : Descriptor) :
    (s.catalogReady i d).Issued := ⟨rfl, rfl, rfl⟩

theorem State.inputListed_catalogReady (i : Instr) (s : State) (d : Descriptor) :
    (s.catalogReady i d).InputListed := State.inputListed_writeDescriptor _ d

/-- A catalog operation that builds a frame is `BUILD_FRAME` on its own descriptor (R139). -/
theorem exec_of_catalogDescriptor {i : Instr} {s : State} {d : Descriptor}
    (hd : catalogDescriptor Config.params i s = some d) :
    exec i s = .next ((s.catalogReady i d).frameEnded Config.params) := by
  rw [← frameSteps_eq_frameEnded _ (s.issued_catalogReady i d) (.inl (s.inputListed_catalogReady i d))]
  cases i with
  | crc8 | crc16 | buildFrame | isDeltaModel => cases hd
  | acSwitch => cases hd; rw [exec, execAcSwitch, catalogSteps]; rfl
  | getPd => cases hd; rw [exec, execGetPd, catalogSteps]; rfl
  | getDcInType => cases hd; rw [exec, execGetDcInType, querySteps, catalogSteps]; rfl
  | getDcInCurrent => cases hd; rw [exec, execGetDcInCurrent, querySteps, catalogSteps]; rfl

/-! ### Every operation -/

/-- `Ends i s t`: operation `i`, called in `s`, ends in `t`. -/
inductive Ends : Instr → State → State → Prop
  /-- `CRC8`, with its input there. -/
  | crc8 {s : State} (h : s.InputListed) : Ends .crc8 s (s.crc8Ended Config.params)
  /-- `CRC16`, with its input there. -/
  | crc16 {s : State} (h : s.InputListed) : Ends .crc16 s (s.crc16Ended Config.params)
  /-- `BUILD_FRAME`, with its payload there or too long to be read. -/
  | buildFrame {s : State} (h : s.InputListed ∨ 65535 < s.ilen) :
    Ends .buildFrame s (s.issue.frameEnded Config.params)
  /-- `IS_DELTA_MODEL`. -/
  | isDeltaModel {s : State} : Ends .isDeltaModel s s.issue.evalPredicate.finish
  /-- A catalog operation that builds a frame. -/
  | catalog {i : Instr} {s : State} {d : Descriptor}
    (hd : catalogDescriptor Config.params i s = some d) :
    Ends i s ((s.catalogReady i d).frameEnded Config.params)

/-- All an operation that answers a next state can have done. -/
theorem ends_of_exec {i : Instr} {s t : State} (h : exec i s = .next t) : Ends i s t := by
  have hcatalog : ∀ d, catalogDescriptor Config.params i s = some d → Ends i s t := fun d hd => by
    rw [exec_of_catalogDescriptor hd] at h
    cases h
    exact .catalog hd
  cases i with
  | crc8 =>
    obtain ⟨hm, rfl⟩ := whenReadable_eq_next_iff.1 h
    have hl := s.missingInput_eq_none_iff.1 hm
    exact crc8Steps_issue Config.params hl ▸ .crc8 hl
  | crc16 =>
    obtain ⟨hm, rfl⟩ := whenReadable_eq_next_iff.1 h
    have hl := s.missingInput_eq_none_iff.1 hm
    exact crc16Steps_issue Config.params hl ▸ .crc16 hl
  | buildFrame =>
    obtain ⟨hm, rfl⟩ := whenReadable_eq_next_iff.1 h
    have hl := s.missingPayload_eq_none_iff.1 hm
    exact frameSteps_eq_frameEnded Config.params s.issued_issue hl ▸ .buildFrame hl
  | isDeltaModel => cases h; exact .isDeltaModel
  | acSwitch | getPd | getDcInType | getDcInCurrent => exact hcatalog _ rfl

/-- An index `missingInput` finds is one below `ILEN` at which `IN` holds no value. -/
theorem State.missingInput_eq_some {s : State} {a : Nat} (h : s.missingInput = some a) :
    a < s.ilen ∧ s.inBuf.read a = none := by
  unfold State.missingInput at h
  have hnone := List.find?_some h
  exact ⟨List.mem_range.1 (List.mem_of_find?_eq_some h), Option.isNone_iff_eq_none.1 hnone⟩

/-- So is one `missingPayload` finds. -/
theorem State.missingPayload_eq_some {s : State} {a : Nat} (h : s.missingPayload = some a) :
    a < s.ilen ∧ s.inBuf.read a = none := by
  unfold State.missingPayload at h
  split at h
  · cases h
  · exact State.missingInput_eq_some h

/-- An operation that reads its input ends, or faults on the missing index. -/
theorem whenReadable_cases (missing : Option Nat) (t : State) :
    whenReadable missing t = .next t ∨
      ∃ a, missing = some a ∧ whenReadable missing t = .fault (.inputUnlisted a) := by
  cases missing with
  | none => exact .inl rfl
  | some a => exact .inr ⟨a, rfl, rfl⟩

/-! ### What the end of a frame leaves -/

theorem State.framed_outBuf (p : Params) (s : State) :
    (s.framed p).outBuf = s.outBuf.writeAll 0 (frame p s.descriptor) := by
  rw [State.framed]

theorem State.frameEnded_of_gt (p : Params) {s : State} (h : 65535 < s.ilen) :
    s.frameEnded p = s.raisePayloadTooLarge s.ilen := if_pos h

theorem State.frameEnded_of_le (p : Params) {s : State} (h : ¬65535 < s.ilen) :
    s.frameEnded p = s.framed p := if_neg h

section
variable (p : Params) (s : State)

@[simp] theorem State.frameEnded_dst : (s.frameEnded p).dst = s.dst := by
  unfold State.frameEnded; split <;> rfl
@[simp] theorem State.frameEnded_cmdSet : (s.frameEnded p).cmdSet = s.cmdSet := by
  unfold State.frameEnded; split <;> rfl
@[simp] theorem State.frameEnded_cmdId : (s.frameEnded p).cmdId = s.cmdId := by
  unfold State.frameEnded; split <;> rfl
@[simp] theorem State.frameEnded_argState : (s.frameEnded p).argState = s.argState := by
  unfold State.frameEnded; split <;> rfl
@[simp] theorem State.frameEnded_argPcode : (s.frameEnded p).argPcode = s.argPcode := by
  unfold State.frameEnded; split <;> rfl
@[simp] theorem State.frameEnded_pred : (s.frameEnded p).pred = s.pred := by
  unfold State.frameEnded; split <;> rfl
@[simp] theorem State.frameEnded_inBuf : (s.frameEnded p).inBuf = s.inBuf := by
  unfold State.frameEnded; split <;> rfl
@[simp] theorem State.frameEnded_ilen : (s.frameEnded p).ilen = s.ilen := by
  unfold State.frameEnded; split <;> rfl
@[simp] theorem State.frameEnded_todo : (s.frameEnded p).todo = [] := by
  unfold State.frameEnded; split <;> rfl
@[simp] theorem State.frameEnded_script : (s.frameEnded p).script = s.script := by
  unfold State.frameEnded; split <;> rfl

@[simp] theorem State.inBytes_frameEnded : (s.frameEnded p).inBytes = s.inBytes := by
  unfold State.frameEnded; split <;> rfl

end

/-- `WP` at the end of `BUILD_FRAME`: the frame's length, or 0 with the error (R130, R164). -/
theorem State.frameEnded_wp (p : Params) {s : State} (hi : s.Issued) :
    (s.frameEnded p).wp = if 65535 < s.ilen then 0 else 18 + s.ilen := by
  unfold State.frameEnded
  split
  · exact hi.wp
  · rfl

/-- `RP` at the end of `BUILD_FRAME`: the payload's length, or 0 with the error (R126, R164). -/
theorem State.frameEnded_rp (p : Params) {s : State} (hi : s.Issued) :
    (s.frameEnded p).rp = if 65535 < s.ilen then 0 else s.ilen := by
  unfold State.frameEnded
  split
  · exact hi.rp
  · rfl

/-- Everything `BUILD_FRAME` can change, as a record update. -/
theorem State.frameEnded_eq (p : Params) {s : State} (hi : s.Issued) :
    s.frameEnded p =
      { s with acc8 := (s.frameEnded p).acc8, acc16 := (s.frameEnded p).acc16
               outBuf := (s.frameEnded p).outBuf
               wp := if 65535 < s.ilen then 0 else 18 + s.ilen
               rp := if 65535 < s.ilen then 0 else s.ilen
               stepReg := (s.frameEnded p).stepReg, status := (s.frameEnded p).status
               raised := (s.frameEnded p).raised, todo := [] } := by
  by_cases h : 65535 < s.ilen
  · simp only [State.frameEnded_of_gt p h, if_pos h, State.raisePayloadTooLarge, hi.wp, hi.rp]
  · simp only [State.frameEnded_of_le p h, if_neg h, State.framed]

/-- `BUILD_FRAME` changes no byte of `OUT` above its frame, and none at all with the error. -/
theorem State.read_frameEnded (p : Params) {s : State} (hl : s.InputListed ∨ 65535 < s.ilen) {a : Nat}
    (ha : (if 65535 < s.ilen then 0 else 18 + s.ilen) ≤ a) :
    (s.frameEnded p).outBuf.read a = s.outBuf.read a := by
  unfold State.frameEnded
  split
  case isTrue => rfl
  case isFalse hle =>
    have hN : s.descriptor.payload.length = s.ilen := (hl.resolve_right hle).length_inBytes
    rw [if_neg hle] at ha
    rw [State.framed_outBuf, Memory.read_writeAll_above _ _ (by rw [length_frame, hN]; exact ha)]

end Sys2Proof.Machine
end

section
/-! SUPPORT. The invariant is kept by every step. Its buffer part (`State.BuffersSound`) is kept by every
micro-step; its status part is looked at only where an operation starts or ends. -/

namespace Sys2Proof.Machine

/-! ### What a step can do -/

/-- `StepsTo s t`: the six ways from `s` to a next state `t`. -/
inductive StepsTo : State → State → Prop
  /-- A micro-step, of its own or during a wait. -/
  | micro {s t : State} (h : microStep Config.params s = .next t) : StepsTo s t
  /-- A move that changes nothing: a read of a result, or a wait that is over. -/
  | taken {s : State} (rest : List CallerMove) : StepsTo s (s.setScript rest)
  /-- Reset. -/
  | reset {s : State} (rest : List CallerMove) : StepsTo s (State.reset.setScript rest)
  /-- Operands are presented to an idle block. -/
  | presented {s : State} (rest : List CallerMove) (o : Operands) (hidle : s.busy = false) :
    StepsTo s ((s.setScript rest).present o)
  /-- An idle block runs a called operation. -/
  | called {s t : State} (rest : List CallerMove) (i : Instr) (hidle : s.busy = false)
    (h : exec i (s.setScript rest) = .next t) : StepsTo s t
  /-- An idle block starts an issued operation. -/
  | issued {s : State} (rest : List CallerMove) (i : Instr) (hidle : s.busy = false) :
    StepsTo s ((s.setScript rest).start Config.params i)

/-- A caller's read that answers a next state has changed nothing. -/
theorem afterRead_eq_next {α : Type} {r : Except Fault α} {s t : State} (h : afterRead r s = .next t) :
    t = s := by
  cases r with
  | error f => cases h
  | ok v => cases h; rfl

theorem callOperation_eq_next {op : Byte} {s t : State} (h : callOperation op s = .next t) :
    s.busy = false ∧ ∃ i, exec i s = .next t := by
  unfold callOperation at h
  split at h
  · cases h
  · split at h
    · exact ⟨Bool.eq_false_iff.2 ‹_›, _, h⟩
    · cases h

theorem issueOperation_eq_next {op : Byte} {s t : State} (h : issueOperation op s = .next t) :
    s.busy = false ∧ ∃ i, t = s.start Config.params i := by
  unfold issueOperation at h
  split at h
  · cases h
  · split at h
    · cases h; exact ⟨Bool.eq_false_iff.2 ‹_›, _, rfl⟩
    · cases h

/-- All a caller's move that answers a next state can have done. -/
theorem stepsTo_of_callerMove {m : CallerMove} {rest : List CallerMove} {s t : State}
    (h : callerMove m rest s = .next t) : StepsTo s t := by
  cases m with
  | present o =>
    simp only [callerMove] at h
    split at h
    · cases h
    · cases h; exact .presented rest o (Bool.eq_false_iff.2 ‹_›)
  | call op =>
    obtain ⟨hidle, i, hi⟩ := callOperation_eq_next h
    exact .called rest i hidle hi
  | issue op =>
    obtain ⟨hidle, i, rfl⟩ := issueOperation_eq_next h
    exact .issued rest i hidle
  | wait =>
    simp only [callerMove] at h
    split at h
    · exact .micro h
    · cases h; exact .taken rest
  | readOut a => exact afterRead_eq_next h ▸ .taken rest
  | readPred => exact afterRead_eq_next h ▸ .taken rest
  | reset => cases h; exact .reset rest

/-- All a step that answers a next state can have done. -/
theorem stepsTo_of_step {s t : State} (h : step s = .next t) : StepsTo s t := by
  unfold step at h
  split at h
  · exact .micro h
  · exact stepsTo_of_callerMove h

/-! ### The buffers -/

/-- The part of the invariant that speaks of the two buffers. -/
structure State.BuffersSound (s : State) : Prop where
  /-- `IN` is in canonical form. -/
  inWf : s.inBuf.wf
  /-- `OUT` is in canonical form. -/
  outWf : s.outBuf.wf
  /-- The input is there. -/
  inputListed : s.InputListed
  /-- The appended bytes are there. -/
  outputListed : s.OutputListed

theorem State.Inv.buffersSound {s : State} (h : s.Inv) : s.BuffersSound :=
  ⟨h.inWf, h.outWf, h.inputListed, h.outputListed⟩

theorem State.BuffersSound.inv {s : State} (h : s.BuffersSound) (hl : s.StatusLegal)
    (hb : s.BusyNotDone) : s.Inv :=
  ⟨h.inWf, h.outWf, h.inputListed, h.outputListed, hl, hb⟩

/-- The issue empties `OUT[0:WP]`. -/
theorem State.BuffersSound.issue {s : State} (h : s.BuffersSound) : s.issue.BuffersSound :=
  ⟨h.inWf, h.outWf, h.inputListed, fun _ ha => absurd ha (Nat.not_lt_zero _)⟩

theorem State.BuffersSound.writeDescriptor {s : State} (h : s.BuffersSound) (d : Descriptor) :
    (s.writeDescriptor d).BuffersSound :=
  ⟨Memory.writeAll_wf d.payload h.inWf 0, h.outWf, s.inputListed_writeDescriptor d, h.outputListed⟩

theorem State.BuffersSound.writeInput {s : State} (h : s.BuffersSound) (q : List Byte) :
    (s.writeInput q).BuffersSound :=
  ⟨Memory.writeAll_wf q h.inWf 0, h.outWf, s.inputListed_writeInput q, h.outputListed⟩

/-- A state whose `OUT[0:WP]` was written as one sequence, with the input left alone. -/
theorem State.BuffersSound.written {s t : State} (h : s.BuffersSound) (bs : List Byte)
    (hin : t.inBuf = s.inBuf) (hilen : t.ilen = s.ilen) (hout : t.outBuf = s.outBuf.writeAll 0 bs)
    (hw : t.wp = bs.length) : t.BuffersSound where
  inWf := hin ▸ h.inWf
  outWf := hout ▸ Memory.writeAll_wf bs h.outWf 0
  inputListed := by
    unfold State.InputListed
    rw [hin, hilen]
    exact h.inputListed
  outputListed := by
    unfold State.OutputListed
    rw [hout, hw]
    exact fun _ ha => Memory.isSome_read_writeAll s.outBuf bs ha

theorem State.BuffersSound.frameEnded (p : Params) {s : State} (h : s.BuffersSound) :
    (s.frameEnded p).BuffersSound := by
  by_cases hgt : 65535 < s.ilen
  · rw [State.frameEnded_of_gt p hgt]
    exact ⟨h.inWf, h.outWf, h.inputListed, h.outputListed⟩
  · have hN : s.descriptor.payload.length = s.ilen := h.inputListed.length_inBytes
    rw [State.frameEnded_of_le p hgt]
    exact h.written (frame p s.descriptor) rfl rfl (s.framed_outBuf p)
      (by rw [length_frame, hN, State.framed])

theorem State.BuffersSound.present {s : State} (h : s.BuffersSound) (o : Operands) :
    (s.present o).BuffersSound := by
  cases o with
  | none => exact h
  | data bytes => exact h.writeInput bytes
  | descriptor dst cmdSet cmdId payload => exact h.writeDescriptor _
  | toggle on => exact ⟨h.inWf, h.outWf, h.inputListed, h.outputListed⟩
  | product code => exact ⟨h.inWf, h.outWf, h.inputListed, h.outputListed⟩

/-! ### One micro-step -/

/-- A micro-step appends at most one byte to `OUT`. -/
theorem Micro.perform_outBuf (p : Params) (m : Micro) (s : State) :
    (m.perform p s).outBuf = s.outBuf ∨ ∃ v, (m.perform p s).outBuf = s.outBuf.write s.wp v := by
  cases m with
  | emitAcc8 | emitAcc16Low | emitAcc16High | emitByte | emitLengthLow | emitLengthHigh | emitDst
  | emitCmdSet | emitCmdId => exact .inr ⟨_, rfl⟩
  | copyInput =>
    rw [Micro.perform, State.fromInput]
    split
    · exact .inr ⟨_, rfl⟩
    · exact .inl rfl
  | cg8Input | cg16Input => rw [Micro.perform, State.fromInput]; split <;> exact .inl rfl
  | cg8Output i | cg16Output i => rw [Micro.perform, State.fromOutput]; split <;> exact .inl rfl
  | checkLength => rw [Micro.perform]; split <;> exact .inl rfl
  | _ => exact .inl rfl

/-- Every micro-step keeps the buffers sound. -/
theorem Micro.perform_buffersSound (p : Params) (m : Micro) {s : State} (h : s.BuffersSound) :
    (m.perform p s).BuffersSound := by
  have hout : (m.perform p s).outBuf.wf := by
    obtain heq | ⟨v, heq⟩ := m.perform_outBuf p s
    · rw [heq]; exact h.outWf
    · rw [heq]; exact Memory.write_wf h.outWf s.wp v
  cases hm : m.writesOperands with
  | false =>
    obtain ⟨hin, hilen, -⟩ := Micro.perform_operands p s hm
    refine ⟨hin ▸ h.inWf, hout, ?_, m.perform_outputListed p h.outputListed⟩
    unfold State.InputListed
    rw [hin, hilen]
    exact h.inputListed
  | true =>
    cases m with
    | writeDescriptor d => exact h.writeDescriptor d
    | chooseDescriptor delta other => exact h.writeDescriptor _
    | _ => cases hm

/-- Only the length check and the last micro-step touch the life of the operation. -/
theorem Micro.perform_life (p : Params) {m : Micro} (s : State) (h1 : m ≠ .checkLength)
    (h2 : m ≠ .finish) : (m.perform p s).status = s.status ∧ (m.perform p s).raised = s.raised ∧
      (m.perform p s).todo = s.todo := by
  cases m with
  | checkLength => exact absurd rfl h1
  | finish => exact absurd rfl h2
  | cg8Input | cg16Input | copyInput =>
    rw [Micro.perform, State.fromInput]; split <;> exact ⟨rfl, rfl, rfl⟩
  | cg8Output i | cg16Output i =>
    rw [Micro.perform, State.fromOutput]; split <;> exact ⟨rfl, rfl, rfl⟩
  | _ => exact ⟨rfl, rfl, rfl⟩

/-! ### The status -/

theorem State.statusLegal_of_not_err {s : State} (hs : s.status.err = false) (hr : s.raised = none) :
    s.StatusLegal := by
  simp [State.StatusLegal, hs, hr]

theorem State.statusLegal_raisePayloadTooLarge (s : State) (n : Nat) :
    (s.raisePayloadTooLarge n).StatusLegal := ⟨fun _ => rfl, rfl⟩

theorem State.busyNotDone_of_todo_nil {s : State} (h : s.todo = []) : s.BusyNotDone := by
  simp [State.BusyNotDone, State.busy, h]

theorem State.busyNotDone_of_idle {s : State} (h : s.busy = false) : s.BusyNotDone := by
  simp [State.BusyNotDone, h]

/-- While an operation is under way, `STATUS` is 0 and no error is surfaced. -/
theorem State.Inv.underWay {s : State} (h : s.Inv) {m : Micro} {rest : List Micro}
    (hs : s.todo = m :: rest) : s.status = ⟨false, false⟩ ∧ s.raised = none := by
  have h0 : s.status = ⟨false, false⟩ := h.busyNotDone (by rw [State.busy, hs]; rfl)
  have herr : s.raised.isSome = false := h.statusLegal.2.symm.trans (congrArg Status.err h0)
  exact ⟨h0, by simpa using herr⟩

/-! ### The steps keep the invariant -/

/-- A micro-step either ends the operation, or leaves `STATUS` at 0. -/
theorem Micro.perform_status (p : Params) (m : Micro) {s : State} (hs : s.status = ⟨false, false⟩)
    (hr : s.raised = none) : (m.perform p s).StatusLegal ∧ (m.perform p s).BusyNotDone := by
  have herr : s.status.err = false := congrArg Status.err hs
  by_cases h1 : m = .checkLength
  · subst m
    rw [Micro.perform]
    split
    · exact ⟨State.statusLegal_raisePayloadTooLarge s _, State.busyNotDone_of_todo_nil rfl⟩
    · exact ⟨State.statusLegal_of_not_err herr hr, fun _ => hs⟩
  by_cases h2 : m = .finish
  · subst m
    exact ⟨State.statusLegal_of_not_err herr hr, State.busyNotDone_of_todo_nil rfl⟩
  obtain ⟨hstatus, hraised, -⟩ := Micro.perform_life p s h1 h2
  exact ⟨State.statusLegal_of_not_err (by rw [hstatus, herr]) (hraised.trans hr),
    fun _ => hstatus.trans hs⟩

theorem microStep_inv {p : Params} {s t : State} (h : s.Inv) (ht : microStep p s = .next t) : t.Inv := by
  obtain ⟨-, rfl⟩ | ⟨m, rest, hs, -, rfl⟩ := microStep_cases ht
  · exact h
  · obtain ⟨hstatus, hraised⟩ := h.underWay hs
    have hb : (s.setTodo rest).BuffersSound := ⟨h.inWf, h.outWf, h.inputListed, h.outputListed⟩
    obtain ⟨hlegal, hbusy⟩ := m.perform_status p (s := s.setTodo rest) hstatus hraised
    exact (m.perform_buffersSound p hb).inv hlegal hbusy

theorem State.frameEnded_inv (p : Params) {s : State} (hb : s.BuffersSound) (hi : s.Issued)
    (hr : s.raised = none) : (s.frameEnded p).Inv := by
  refine (hb.frameEnded p).inv ?_ (State.busyNotDone_of_todo_nil (s.frameEnded_todo p))
  by_cases hgt : 65535 < s.ilen
  · rw [State.frameEnded_of_gt p hgt]
    exact State.statusLegal_raisePayloadTooLarge s _
  · rw [State.frameEnded_of_le p hgt]
    exact State.statusLegal_of_not_err (congrArg Status.err hi.status) hr

/-- A called operation needs only sound buffers to end in the invariant. -/
theorem Ends.inv {i : Instr} {s t : State} (h : Ends i s t) (hb : s.BuffersSound) : t.Inv := by
  cases h with
  | crc8 =>
    exact State.BuffersSound.inv (hb.written [_] rfl rfl rfl rfl) (State.statusLegal_of_not_err rfl rfl)
      (State.busyNotDone_of_todo_nil rfl)
  | crc16 =>
    exact State.BuffersSound.inv (hb.written (le16 _) rfl rfl rfl rfl) (State.statusLegal_of_not_err rfl rfl)
      (State.busyNotDone_of_todo_nil rfl)
  | buildFrame => exact State.frameEnded_inv _ hb.issue s.issued_issue rfl
  | isDeltaModel =>
    obtain ⟨hin, hout, hil, hol⟩ := hb.issue
    have hb' : s.issue.evalPredicate.finish.BuffersSound := ⟨hin, hout, hil, hol⟩
    exact hb'.inv (State.statusLegal_of_not_err rfl rfl) (State.busyNotDone_of_todo_nil rfl)
  | catalog =>
    obtain ⟨hin, hout, hil, hol⟩ := hb.issue
    have hb' : (s.issue.setPred (s.predAfter i)).BuffersSound := ⟨hin, hout, hil, hol⟩
    exact State.frameEnded_inv _ (hb'.writeDescriptor _) (s.issued_catalogReady i _) rfl

theorem State.start_inv (p : Params) (i : Instr) {s : State} (hb : s.BuffersSound) :
    (s.start p i).Inv := by
  obtain ⟨hin, hout, hil, hol⟩ := hb.issue
  have hb' : (s.start p i).BuffersSound := ⟨hin, hout, hil, hol⟩
  exact hb'.inv (State.statusLegal_of_not_err rfl rfl) (fun _ => rfl)

/-- The caller's moves are not in the invariant. -/
theorem State.Inv.setScript {s : State} (h : s.Inv) (l : List CallerMove) : (s.setScript l).Inv :=
  ⟨h.inWf, h.outWf, h.inputListed, h.outputListed, h.statusLegal, h.busyNotDone⟩

/-- Presenting operands touches neither the status nor what is under way. -/
theorem State.present_life (s : State) (o : Operands) :
    (s.present o).status = s.status ∧ (s.present o).raised = s.raised ∧ (s.present o).todo = s.todo := by
  cases o <;> exact ⟨rfl, rfl, rfl⟩

theorem State.Inv.present {s : State} (h : s.Inv) (hidle : s.busy = false) (o : Operands) :
    (s.present o).Inv := by
  obtain ⟨hstatus, hraised, htodo⟩ := s.present_life o
  refine (h.buffersSound.present o).inv ?_ (State.busyNotDone_of_idle ?_)
  · unfold State.StatusLegal
    rw [hstatus, hraised]
    exact h.statusLegal
  · rw [State.busy, htodo]
    exact hidle

theorem State.inv_reset : State.reset.Inv where
  inWf := List.Pairwise.nil
  outWf := List.Pairwise.nil
  inputListed _ ha := absurd ha (Nat.not_lt_zero _)
  outputListed _ ha := absurd ha (Nat.not_lt_zero _)
  statusLegal := State.statusLegal_of_not_err rfl rfl
  busyNotDone := State.busyNotDone_of_idle rfl

theorem StepsTo.inv {s t : State} (h : StepsTo s t) (hs : s.Inv) : t.Inv := by
  cases h with
  | micro h => exact microStep_inv hs h
  | taken rest => exact hs.setScript rest
  | reset rest => exact State.inv_reset.setScript rest
  | presented rest o hidle => exact (hs.setScript rest).present hidle o
  | called rest i hidle h => exact (ends_of_exec h).inv (hs.setScript rest).buffersSound
  | issued rest i hidle => exact State.start_inv _ i (hs.setScript rest).buffersSound

/-! ### The statements -/

/-- Settles O9: each of the six ways to a next state keeps the invariant. -/
theorem stepKeepsInvariant : Obligations.StepKeepsInvariant :=
  fun _ _ hs h => (stepsTo_of_step h).inv hs

/-- Settles O8: no index is below `ILEN` or `WP`. -/
theorem resetHoldsInvariant : Obligations.ResetHoldsInvariant := State.inv_reset

end Sys2Proof.Machine
end

section
/-! SUPPORT. What the operations leave unchanged, and where they stop: each statement from the end states
(`Ends`). -/

namespace Sys2Proof.Machine

/-- Settles O25: the end states of the two operations are such record updates, and `OUT` is written from
index 0 to `WP`. -/
theorem checksumOperationsFrame : Obligations.ChecksumOperationsFrame := by
  constructor
  · intro s t h
    cases ends_of_exec h with
    | catalog hd => cases hd
    | crc8 =>
      exact ⟨rfl, fun _ ha => Memory.read_writeAll_above _ _ ha⟩
  · intro s t h
    cases ends_of_exec h with
    | catalog hd => cases hd
    | crc16 =>
      exact ⟨rfl, fun _ ha => Memory.read_writeAll_above _ _ ha⟩

/-- Settles O38: the end state of `BUILD_FRAME` as a record update, from the issued state. -/
theorem buildFrameFrame : Obligations.BuildFrameFrame := by
  intro s t h
  cases ends_of_exec h with
  | catalog hd => cases hd
  | buildFrame hl =>
    refine ⟨State.frameEnded_eq Config.params s.issued_issue, fun a ha => ?_, fun hgt => ?_⟩
    · exact State.read_frameEnded (s := s.issue) Config.params hl ha
    · rw [State.frameEnded_of_gt (s := s.issue) Config.params hgt]
      exact ⟨rfl, rfl, rfl⟩

/-- `PRED` at the end of any operation (R18). -/
theorem Ends.pred {i : Instr} {s t : State} (h : Ends i s t) : t.pred = s.predAfter i := by
  cases h with
  | crc8 => rfl
  | crc16 => rfl
  | buildFrame => exact State.frameEnded_pred _ _
  | isDeltaModel => rfl
  | catalog => exact State.frameEnded_pred _ _

/-- Settles O46: a catalog operation ends as `BUILD_FRAME` on the state with its descriptor written. -/
theorem catalogOperationsFrame : Obligations.CatalogOperationsFrame := by
  intro i s t d hi h
  have hd : catalogDescriptor Config.params i s = some d := by
    obtain ⟨rfl, rfl⟩ | ⟨rfl, rfl⟩ | ⟨rfl, rfl⟩ | ⟨rfl, rfl⟩ := hi <;> rfl
  have hpred : i = .acSwitch ∨ i = .getPd → t.pred = s.pred := by
    rintro (rfl | rfl) <;> exact (ends_of_exec h).pred
  rw [exec_of_catalogDescriptor hd] at h
  cases h
  refine ⟨State.frameEnded_argState _ _, State.frameEnded_argPcode _ _, State.frameEnded_script _ _,
    State.frameEnded_todo _ _, hpred, State.frameEnded_dst _ _, State.frameEnded_cmdSet _ _,
    State.frameEnded_cmdId _ _, State.frameEnded_ilen _ _, ?_,
    State.frameEnded_wp _ (s.issued_catalogReady i d), fun a ha => ?_, fun a ha => ?_⟩
  · rw [State.inBytes_frameEnded, State.catalogReady, State.inBytes_writeDescriptor]
  · rw [State.frameEnded_inBuf]
    exact Memory.read_writeAll_above _ _ ha
  · exact State.read_frameEnded _ (.inl (s.inputListed_catalogReady i d)) ha

/-- Settles O50: `PRED` at the end is the predicate, or what it was, by the operation. -/
theorem onlyThreeOperationsWritePred : Obligations.OnlyThreeOperationsWritePred := by
  intro i s t h
  rw [(ends_of_exec h).pred]
  constructor
  · rintro (rfl | rfl | rfl) <;> rfl
  · intro hi
    cases i with
    | isDeltaModel | getDcInType | getDcInCurrent => simp at hi
    | crc8 | crc16 | buildFrame | acSwitch | getPd => rfl

/-- Settles O51: the three that read their input stop on an index `missingInput` finds; the other five
answer a next state by definition. -/
theorem operationsStopOnlyOnMissingInput : Obligations.OperationsStopOnlyOnMissingInput := by
  intro i s
  cases i with
  | isDeltaModel | acSwitch | getPd | getDcInType | getDcInCurrent => exact .inl ⟨_, rfl⟩
  | crc8 =>
    obtain h | ⟨a, ha, h⟩ := whenReadable_cases s.missingInput (crc8Steps Config.params s.issue)
    · exact .inl ⟨_, h⟩
    · obtain ⟨hlt, hnone⟩ := State.missingInput_eq_some ha
      exact .inr ⟨.inl rfl, a, hlt, hnone, h⟩
  | crc16 =>
    obtain h | ⟨a, ha, h⟩ := whenReadable_cases s.missingInput (crc16Steps Config.params s.issue)
    · exact .inl ⟨_, h⟩
    · obtain ⟨hlt, hnone⟩ := State.missingInput_eq_some ha
      exact .inr ⟨.inr (.inl rfl), a, hlt, hnone, h⟩
  | buildFrame =>
    obtain h | ⟨a, ha, h⟩ := whenReadable_cases s.missingPayload (frameSteps Config.params s.issue)
    · exact .inl ⟨_, h⟩
    · obtain ⟨hlt, hnone⟩ := State.missingPayload_eq_some ha
      exact .inr ⟨.inr (.inr rfl), a, hlt, hnone, h⟩

end Sys2Proof.Machine
end

section
/-! SUPPORT. The reads and the operands of a micro-step: when a read faults, and which registers no
micro-step writes. -/

namespace Sys2Proof.Machine

theorem State.setTodo_of_todo {s : State} {l : List Micro} (h : s.todo = l) : s.setTodo l = s := by
  subst h
  rfl

/-! ### Reads that cannot be made -/

/-- `IN[a]` has no value exactly at or above `ILEN` or where `IN` lists none (R22). -/
theorem State.inByte?_eq_none_iff (s : State) (a : Nat) :
    s.inByte? a = none ↔ s.ilen ≤ a ∨ s.inBuf.read a = none := by
  unfold State.inByte?
  split
  · exact (or_iff_right (by omega)).symm
  · exact iff_of_true rfl (.inl (by omega))

/-- `OUT[a]` has no value exactly at or above `WP` or where `OUT` lists none (R22). -/
theorem State.outByte?_eq_none_iff (s : State) (a : Nat) :
    s.outByte? a = none ↔ s.wp ≤ a ∨ s.outBuf.read a = none := by
  unfold State.outByte?
  split
  · exact (or_iff_right (by omega)).symm
  · exact iff_of_true rfl (.inl (by omega))

theorem State.missingInputByte_of_none {s : State} (h : s.inByte? s.rp = none) :
    s.missingInputByte = some (.inputUnlisted s.rp) := by
  rw [State.missingInputByte, h]

theorem State.missingOutputByte_of_none {s : State} {i : Nat} (h : s.outByte? i = none) :
    s.missingOutputByte i = some (.outReadOutOfRange i) := by
  rw [State.missingOutputByte, h]

/-- The micro-steps that read `IN[RP]` (R86 form a). -/
theorem Micro.missingRead_input {m : Micro} (h : m = .cg8Input ∨ m = .cg16Input ∨ m = .copyInput)
    (s : State) : m.missingRead s = s.missingInputByte := by
  obtain rfl | rfl | rfl := h <;> rfl

/-- The micro-steps that read `OUT[k]` (R86 form b). -/
theorem Micro.missingRead_output {m : Micro} {k : Nat} (h : m = .cg8Output k ∨ m = .cg16Output k)
    (s : State) : m.missingRead s = s.missingOutputByte k := by
  obtain rfl | rfl := h <;> rfl

/-- Every other micro-step reads neither. -/
theorem Micro.missingRead_other {m : Micro} (hin : ¬(m = .cg8Input ∨ m = .cg16Input ∨ m = .copyInput))
    (hout : ∀ k, ¬(m = .cg8Output k ∨ m = .cg16Output k)) (s : State) : m.missingRead s = none := by
  cases m with
  | cg8Input | cg16Input | copyInput => simp at hin
  | cg8Output k | cg16Output k => exact absurd (by simp) (hout k)
  | _ => rfl

/-- Settles O57: a micro-step faults exactly when its read finds no value, and each kind of micro-step
reads at most one byte. -/
theorem microStepsFaultOnReadsOutOfRange : Obligations.MicroStepsFaultOnReadsOutOfRange := by
  intro p s m rest hs
  have hready := microStep_ready p (m := m) (s := s) (rest := rest)
  have hmissing := fun f => microStep_missing p (m := m) (s := s) (f := f) (rest := rest)
  rw [State.setTodo_of_todo hs] at hready hmissing
  refine ⟨fun hm habsent => ?_, fun k hm habsent => ?_, fun hin hout => ⟨_, hready ?_⟩⟩
  · refine hmissing _ ((Micro.missingRead_input hm s).trans (State.missingInputByte_of_none ?_))
    exact (s.inByte?_eq_none_iff _).2 habsent
  · refine hmissing _ ((Micro.missingRead_output hm s).trans (State.missingOutputByte_of_none ?_))
    exact (s.outByte?_eq_none_iff _).2 habsent
  · by_cases hmi : m = .cg8Input ∨ m = .cg16Input ∨ m = .copyInput
    · rw [Micro.missingRead_input hmi, State.missingInputByte_eq_none_iff, ← Option.ne_none_iff_exists']
      exact fun hnone => hin ⟨hmi, (s.inByte?_eq_none_iff _).1 hnone⟩
    by_cases hmo : ∃ k, m = .cg8Output k ∨ m = .cg16Output k
    · obtain ⟨k, hk⟩ := hmo
      rw [Micro.missingRead_output hk, State.missingOutputByte_eq_none_iff,
        ← Option.ne_none_iff_exists']
      exact fun hnone => hout ⟨k, hk, (s.outByte?_eq_none_iff _).1 hnone⟩
    exact Micro.missingRead_other hmi (not_exists.1 hmo) s

/-! ### The operands -/

/-- No micro-step writes `ARG_STATE` or `ARG_PCODE` (R17). -/
theorem Micro.perform_arguments (p : Params) (m : Micro) (s : State) :
    (m.perform p s).argState = s.argState ∧ (m.perform p s).argPcode = s.argPcode := by
  cases m with
  | cg8Input | cg16Input | copyInput =>
    rw [Micro.perform, State.fromInput]; split <;> exact ⟨rfl, rfl⟩
  | cg8Output i | cg16Output i => rw [Micro.perform, State.fromOutput]; split <;> exact ⟨rfl, rfl⟩
  | checkLength => rw [Micro.perform]; split <;> exact ⟨rfl, rfl⟩
  | _ => exact ⟨rfl, rfl⟩

/-- Settles O58: the two descriptor writes are the only micro-steps that change an operand. -/
theorem onlyTheFrontEndWritesOperands : Obligations.OnlyTheFrontEndWritesOperands := by
  intro p s t h
  obtain ⟨-, rfl⟩ | ⟨m, rest, hs, -, rfl⟩ := microStep_cases h
  · exact ⟨rfl, rfl, .inr ⟨rfl, rfl, rfl, rfl, rfl⟩⟩
  obtain ⟨hstate, hpcode⟩ := m.perform_arguments p (s.setTodo rest)
  refine ⟨hstate, hpcode, ?_⟩
  cases hm : m.writesOperands with
  | false => exact .inr (Micro.perform_operands p (s.setTodo rest) hm)
  | true =>
    have hwritten : ∀ d, m.perform p (s.setTodo rest) = (s.setTodo rest).writeDescriptor d →
        (m.perform p (s.setTodo rest)).descriptor = d ∧
        (m.perform p (s.setTodo rest)).ilen = d.payload.length ∧
        ∀ a, d.payload.length ≤ a →
          (m.perform p (s.setTodo rest)).inBuf.read a = s.inBuf.read a := fun d hd => by
      rw [hd]
      exact ⟨State.descriptor_writeDescriptor _ d, rfl, fun _ => Memory.read_writeAll_above _ _⟩
    cases m with
    | writeDescriptor d => exact .inl ⟨d, rest, .inl hs, hwritten d rfl⟩
    | chooseDescriptor delta other =>
      exact .inl ⟨if s.pred then delta else other, rest, .inr ⟨delta, other, hs, rfl⟩, hwritten _ rfl⟩
    | _ => cases hm

end Sys2Proof.Machine
end

section
/-! SUPPORT. The bounds of `WP` and `RP`. An issued operation is in the catalog front end, which moves
neither counter, or past it; past it the operands stand, each input read has found `RP` below `ILEN`, and
what is still to be appended fits under the bound (`State.Bounded`). -/

namespace Sys2Proof.Machine

/-- The micro-steps of the catalog front end before the length check (R139, R140). -/
def Micro.IsFrontEnd (m : Micro) : Prop := m = .predicate ∨ m.writesOperands = true

/-- The micro-steps that neither write an operand nor put further micro-steps under way. -/
abbrev Micro.IsBody (m : Micro) : Prop := m.writesOperands = false ∧ m ≠ .checkLength

/-- The bytes still to be appended by a list of micro-steps. -/
def appendCount (l : List Micro) : Nat := (l.map Micro.appends).sum

/-- Where an issued operation can stand. -/
inductive State.Bounded (s : State) : Prop
  /-- In the catalog front end, or at the length check. -/
  | front (l : List Micro) (htodo : s.todo = l ++ [.checkLength])
    (hl : ∀ m ∈ l, m.IsFrontEnd) (hw : s.wp = 0) (hrp : s.rp = 0)
  /-- Past it. -/
  | body (hl : ∀ m ∈ s.todo, m.IsBody) (hw : s.wp + appendCount s.todo ≤ 65553)
    (hrp : s.rp ≤ s.ilen)

theorem State.Bounded.bounds {s : State} (h : s.Bounded) : s.wp ≤ 65553 ∧ s.rp ≤ s.ilen := by
  cases h <;> omega

/-! ### The lists of micro-steps -/

theorem appendCount_cons (m : Micro) (l : List Micro) :
    appendCount (m :: l) = m.appends + appendCount l := by
  rw [appendCount, List.map_cons, List.sum_cons, appendCount]

/-- A frame's program appends the frame's length (R130). -/
theorem appendCount_frameProgram (n : Nat) : appendCount (frameProgram n) = 18 + n := by
  have houts : ((List.range (headerLen + n)).map (Micro.appends ∘ Micro.cg16Output)).sum = 0 :=
    List.sum_eq_zero (by simp [Micro.appends])
  simp only [appendCount, frameProgram, midHeader, List.map_append, List.map_map, List.sum_append,
    List.map_replicate, List.sum_replicate, houts]
  simp [Micro.appends]
  omega

theorem isBody_frameProgram (n : Nat) : ∀ m ∈ frameProgram n, m.IsBody := by
  intro m hm
  simp only [frameProgram, List.mem_append, List.mem_replicate, List.mem_map] at hm
  obtain (((((hm | ⟨b, -, rfl⟩) | hm) | ⟨-, rfl⟩) | hm) | ⟨i, -, rfl⟩) | hm := hm
  · revert m; decide
  · exact ⟨rfl, nofun⟩
  · revert m; decide
  · exact ⟨rfl, nofun⟩
  · revert m; decide
  · exact ⟨rfl, nofun⟩
  · revert m; decide

/-- An issue starts in bounds. -/
theorem State.bounded_start (p : Params) (i : Instr) (s : State) : (s.start p i).Bounded := by
  cases i with
  | crc8 =>
    refine .body (fun m hm => ?_) ?_ (Nat.zero_le _)
    · simp only [State.start, State.setTodo_todo, microProgram, List.mem_cons, List.mem_append,
        List.mem_replicate, List.not_mem_nil, or_false] at hm
      obtain (rfl | ⟨-, rfl⟩) | rfl | rfl := hm <;> exact ⟨rfl, nofun⟩
    · simp [State.start, microProgram, appendCount, Micro.appends]
  | crc16 =>
    refine .body (fun m hm => ?_) ?_ (Nat.zero_le _)
    · simp only [State.start, State.setTodo_todo, microProgram, List.mem_cons, List.mem_append,
        List.mem_replicate, List.not_mem_nil, or_false] at hm
      obtain (rfl | ⟨-, rfl⟩) | rfl | rfl | rfl := hm <;> exact ⟨rfl, nofun⟩
    · simp [State.start, microProgram, appendCount, Micro.appends]
  | isDeltaModel =>
    have hl : ∀ m ∈ [Micro.predicate, .finish], m.IsBody := by decide
    exact .body hl (by decide : 0 + appendCount [.predicate, .finish] ≤ 65553) (Nat.zero_le _)
  | buildFrame => exact .front [] rfl (by simp) rfl rfl
  | acSwitch => exact .front [_] rfl (by simp [Micro.IsFrontEnd, Micro.writesOperands]) rfl rfl
  | getPd => exact .front [_] rfl (by simp [Micro.IsFrontEnd, Micro.writesOperands]) rfl rfl
  | getDcInType =>
    exact .front [_, _] rfl (by simp [Micro.IsFrontEnd, Micro.writesOperands]) rfl rfl
  | getDcInCurrent =>
    exact .front [_, _] rfl (by simp [Micro.IsFrontEnd, Micro.writesOperands]) rfl rfl

/-! ### One micro-step -/

/-- The front end moves no counter and takes nothing from what is to do. -/
theorem Micro.IsFrontEnd.perform {m : Micro} (h : m.IsFrontEnd) (p : Params) (s : State) :
    (m.perform p s).wp = s.wp ∧ (m.perform p s).rp = s.rp ∧ (m.perform p s).todo = s.todo := by
  cases m with
  | predicate | writeDescriptor | chooseDescriptor => exact ⟨rfl, rfl, rfl⟩
  | _ => simp [Micro.IsFrontEnd, Micro.writesOperands] at h

/-- An input read that can be made finds `RP` below `ILEN`. -/
theorem Micro.rp_add_inputs_le {m : Micro} {s : State} (h : m.missingRead s = none)
    (hrp : s.rp ≤ s.ilen) : s.rp + m.inputs ≤ s.ilen := by
  have hread : s.missingInputByte = none → s.rp + 1 ≤ s.ilen := fun hr => by
    obtain ⟨b, hb⟩ := s.missingInputByte_eq_none_iff.1 hr
    by_contra hlt
    rw [(s.inByte?_eq_none_iff s.rp).2 (.inl (by omega))] at hb
    cases hb
  cases m with
  | cg8Input | cg16Input | copyInput => exact hread h
  | _ => exact hrp

/-- A micro-step past the length check leaves the rest to do, or ends the operation. -/
theorem Micro.IsBody.todo {m : Micro} (h : m.IsBody) (p : Params) (s : State) :
    (m.perform p s).todo = s.todo ∨ (m.perform p s).todo = [] := by
  by_cases hf : m = .finish
  · subst m; exact .inr rfl
  · obtain ⟨-, -, htodo⟩ := Micro.perform_life p s h.2 hf
    exact .inl htodo

/-- The length check goes on to a frame that fits, or ends the operation (R129). -/
theorem State.bounded_checkLength (p : Params) {s : State} (htodo : s.todo = []) (hw : s.wp = 0)
    (hrp : s.rp = 0) : (Micro.checkLength.perform p s).Bounded := by
  rw [Micro.perform]
  split
  case isTrue =>
    refine .body (by simp) ?_ (Nat.le_trans (Nat.le_of_eq hrp) (Nat.zero_le _))
    simp [appendCount, hw]
  case isFalse hle =>
    have hn : s.ilen ≤ 65535 := Nat.le_of_not_lt hle
    have hlist : (s.setTodo (frameProgram s.ilen ++ s.todo)).todo = frameProgram s.ilen := by
      rw [State.setTodo_todo, htodo, List.append_nil]
    refine .body ?_ ?_ (Nat.le_trans (Nat.le_of_eq hrp) (Nat.zero_le _))
    · rw [hlist]
      exact isBody_frameProgram s.ilen
    · rw [hlist, appendCount_frameProgram, State.setTodo_wp]
      omega

theorem Micro.IsBody.bounded {m : Micro} (hm : m.IsBody) (p : Params) {s : State}
    (hready : m.missingRead s = none) (hl : ∀ k ∈ s.todo, k.IsBody)
    (hw : s.wp + (m.appends + appendCount s.todo) ≤ 65553) (hrp : s.rp ≤ s.ilen) :
    (m.perform p s).Bounded := by
  obtain ⟨hwp', hrp'⟩ := Micro.perform_counters p hready
  obtain ⟨-, hilen, -⟩ := Micro.perform_operands p s hm.1
  have hle := Micro.rp_add_inputs_le hready hrp
  obtain htodo | htodo := hm.todo p s
  · exact .body (htodo ▸ hl) (by rw [htodo, hwp']; omega) (by omega)
  · refine .body (by simp [htodo]) ?_ (by omega)
    rw [htodo, hwp', appendCount, List.map_nil, List.sum_nil]
    omega

/-- Every micro-step stays in bounds. -/
theorem microStep_bounded {p : Params} {s t : State} (h : s.Bounded) (ht : microStep p s = .next t) :
    t.Bounded := by
  obtain ⟨-, rfl⟩ | ⟨m, rest, hs, hready, rfl⟩ := microStep_cases ht
  · exact h
  cases h with
  | front l htodo hl hw hrp =>
    rw [hs] at htodo
    cases l with
    | nil =>
      obtain ⟨rfl, rfl⟩ := List.cons.inj htodo
      exact State.bounded_checkLength p rfl hw hrp
    | cons k l =>
      obtain ⟨rfl, rfl⟩ := List.cons.inj htodo
      obtain ⟨hwp', hrp', htodo'⟩ := (hl m List.mem_cons_self).perform p (s.setTodo (l ++ [.checkLength]))
      exact .front l htodo' (fun k hk => hl k (List.mem_cons_of_mem _ hk)) (hwp'.trans hw)
        (hrp'.trans hrp)
  | body hl hw hrp =>
    rw [hs] at hl
    rw [hs, appendCount_cons] at hw
    have hready' := (m.missingRead_setTodo s rest).trans hready
    exact (hl m List.mem_cons_self).bounded p hready' (fun k hk => hl k (List.mem_cons_of_mem _ hk))
      hw hrp

/-! ### The statement -/

/-- The counters where a called operation has ended. -/
theorem State.frameEnded_bounds (p : Params) {s : State} (hi : s.Issued) :
    (s.frameEnded p).wp ≤ 65553 ∧ (s.frameEnded p).rp ≤ (s.frameEnded p).ilen := by
  rw [State.frameEnded_wp p hi, State.frameEnded_rp p hi, State.frameEnded_ilen]
  split <;> omega

theorem Ends.bounds {i : Instr} {s t : State} (h : Ends i s t) : t.wp ≤ 65553 ∧ t.rp ≤ t.ilen := by
  cases h with
  | crc8 => exact ⟨by simp [State.crc8Ended], Nat.le_refl _⟩
  | crc16 => exact ⟨by simp [State.crc16Ended], Nat.le_refl _⟩
  | buildFrame => exact State.frameEnded_bounds _ s.issued_issue
  | isDeltaModel => exact ⟨Nat.zero_le _, Nat.zero_le _⟩
  | catalog => exact State.frameEnded_bounds _ (s.issued_catalogReady i _)

/-- Settles O52: at the end of a call by its end state, and within an issued operation by the invariant
`State.Bounded`. -/
theorem countersStayInRange : Obligations.CountersStayInRange :=
  ⟨fun _ _ _ h => (ends_of_exec h).bounds, fun p i s _ _ h =>
    (microRun_induction (fun _ _ => microStep_bounded) (s.bounded_start p i) h).bounds⟩

end Sys2Proof.Machine
end

section
/-! SUPPORT. Reset, the presenting of operands, and the caller's reads of a result. -/

namespace Sys2Proof.Machine

/-- Settles O5: by the reset value of `STATUS`. -/
theorem resetIsIdleWithStatusZero : Obligations.ResetIsIdleWithStatusZero := ⟨rfl, rfl, rfl⟩

theorem step_of_script {s : State} {m : CallerMove} {rest : List CallerMove} (h : s.script = m :: rest) :
    step s = callerMove m rest s := by
  unfold step
  rw [h]

/-- Settles O15: the two forms with a byte sequence write it to `IN` from index 0, so it stands in
`IN[0:ILEN]`; the other three forms are one register write or none. -/
theorem presentWritesTheOperands : Obligations.PresentWritesTheOperands := by
  intro s d dst cmdSet cmdId q on n
  refine ⟨fun o rest hidle hs => ?_, rfl, ⟨?_, rfl, ?_, rfl⟩, ⟨?_, ?_, rfl⟩, rfl, rfl⟩
  · rw [step_of_script hs, callerMove, if_neg (by simp [hidle])]
  · exact s.inBytes_writeInput d
  · exact s.inputListed_writeInput d
  · exact s.descriptor_writeDescriptor ⟨dst, cmdSet, cmdId, q.getD []⟩
  · exact s.inputListed_writeDescriptor _

/-- An operation ended well exactly when `STATUS` is DONE without ERR (R15). -/
theorem State.endedWell_iff (s : State) : s.endedWell = true ↔ s.status = ⟨true, false⟩ := by
  cases hs : s.status with
  | mk done err => simp [State.endedWell, hs]

/-- Settles O16: the read is guarded by `STATUS` first, then by `WP`. -/
theorem resultReadsAreGuarded : Obligations.ResultReadsAreGuarded := by
  intro s a rest hs
  rw [step_of_script hs, callerMove, State.readOut]
  refine ⟨fun hst hl ha => ?_, fun hst ha => ?_, fun hst => ?_⟩
  · obtain ⟨b, hb⟩ := hl.outByte ha
    rw [if_pos (s.endedWell_iff.2 hst), hb]
    exact ⟨⟨b, rfl, rfl⟩, rfl⟩
  · rw [if_pos (s.endedWell_iff.2 hst), (s.outByte?_eq_none_iff a).2 (.inl ha)]
    rfl
  · rw [if_neg (mt s.endedWell_iff.1 hst)]
    rfl

/-- Settles O17: the guard of the read is the condition under which `PRED` is the result. -/
theorem predicateReadsAreGuarded : Obligations.PredicateReadsAreGuarded := by
  intro s rest hs
  have hguard : (s.endedWell && s.wp == 0) = true ↔ s.status = ⟨true, false⟩ ∧ s.wp = 0 := by
    rw [Bool.and_eq_true, s.endedWell_iff, beq_iff_eq]
  rw [step_of_script hs, callerMove, State.readPred]
  refine ⟨fun hend => ?_, fun hend => ?_⟩
  · rw [if_pos (hguard.2 hend)]
    exact ⟨rfl, (State.delivers_predicate hend.1 hend.2).result, rfl⟩
  · rw [if_neg (mt hguard.1 hend)]
    rfl

end Sys2Proof.Machine
end

section
/-! SUPPORT. What a micro-step does to `OUT` and `WP`, and the steps that wait for the block. -/

namespace Sys2Proof.Machine

/-! ### The output -/

/-- The output as it stands: `WP` and `OUT`. -/
def State.SameOutput (s t : State) : Prop := t.wp = s.wp ∧ t.outBuf = s.outBuf

/-- A micro-step either leaves the output as it stands, or leaves the output of one append (R34, R87).
This ties `WP` to the write, which `Micro.perform_outBuf` does not, and asks for no read that can be made,
as `Micro.perform_counters` does. -/
theorem Micro.perform_output (p : Params) (m : Micro) (s : State) :
    s.SameOutput (m.perform p s) ∨ ∃ v, (s.emit v).SameOutput (m.perform p s) := by
  cases m with
  | emitAcc8 | emitAcc16Low | emitAcc16High | emitByte | emitLengthLow | emitLengthHigh | emitDst
  | emitCmdSet | emitCmdId => exact .inr ⟨_, rfl, rfl⟩
  | copyInput =>
    rw [Micro.perform, State.fromInput]
    split
    · exact .inr ⟨_, rfl, rfl⟩
    · exact .inl ⟨rfl, rfl⟩
  | cg8Input | cg16Input => rw [Micro.perform, State.fromInput]; split <;> exact .inl ⟨rfl, rfl⟩
  | cg8Output i | cg16Output i =>
    rw [Micro.perform, State.fromOutput]; split <;> exact .inl ⟨rfl, rfl⟩
  | checkLength => rw [Micro.perform]; split <;> exact .inl ⟨rfl, rfl⟩
  | _ => exact .inl ⟨rfl, rfl⟩

theorem State.SameOutput.outByte? {s t : State} (h : s.SameOutput t) : t.outByte? = s.outByte? := by
  funext a
  rw [State.outByte?, State.outByte?, h.1, h.2]

/-- Settles O53: the output of a micro-step is that of the old state or of one append to it, and the
append's own laws say what stands at `WP` and elsewhere. -/
theorem outIsAppendOnly : Obligations.OutIsAppendOnly := by
  intro p s t h
  obtain ⟨-, rfl⟩ | ⟨m, rest, -, -, rfl⟩ := microStep_cases h
  · exact .inl ⟨rfl, rfl⟩
  obtain hsame | ⟨v, hemit⟩ := m.perform_output p (s.setTodo rest)
  · exact .inl hsame
  · refine .inr ⟨v, hemit.1, ?_, fun a ha => ?_⟩
    · rw [hemit.outByte?, State.outByte?_emit, if_pos (s.setTodo_wp rest).symm]
    · rw [hemit.2]
      exact Memory.read_write_other s.outBuf v ha

/-! ### Waiting -/

/-- With no move to come a step is the block's own. -/
theorem step_of_no_move {s : State} (h : s.script = []) : step s = microStep Config.params s := by
  unfold step
  rw [h]

/-- Settles O12: a step is the block's own, or the caller's wait, which asks whether an operation is under
way. -/
theorem waitingRunsTheMicroSteps : Obligations.WaitingRunsTheMicroSteps := by
  refine fun s rest => ⟨step_of_no_move, fun hs hbusy => ?_, fun hs hidle => ?_⟩
  · rw [step_of_script hs, callerMove, if_pos hbusy]
  · rw [step_of_script hs, callerMove, if_neg (by simp [hidle])]

end Sys2Proof.Machine
end

section
/-! SUPPORT. The operation select: the decoder and the encoder undo each other, which names the document
uses, and what an idle block does with a request by the operation it names. -/

namespace Sys2Proof.Machine

/-! ### The decoder -/

theorem encoding_statement (i : Instr) : Laws.Encoding.Statement i := by
  cases i with
  | crc8 => exact Laws.Encoding.crc8
  | crc16 => exact Laws.Encoding.crc16
  | buildFrame => exact Laws.Encoding.buildFrame
  | isDeltaModel => exact Laws.Encoding.isDeltaModel
  | acSwitch => exact Laws.Encoding.acSwitch
  | getPd => exact Laws.Encoding.getPd
  | getDcInType => exact Laws.Encoding.getDcInType
  | getDcInCurrent => exact Laws.Encoding.getDcInCurrent

theorem decode_encode_append (i : Instr) (rest : List Byte) :
    decode (encode i ++ rest) = .ok (i, rest) := by
  obtain ⟨-, hdecode, -⟩ := encoding_statement i
  exact hdecode rest

theorem decodeTableWord_encodeOp (i : Instr) : decodeTableWord 8 (encodeOp i).toNat = some i := by
  obtain ⟨-, -, hword⟩ := encoding_statement i
  exact hword

/-- Each row of the table of R59 stands under the encoding of the operation it names. -/
theorem op_of_mem_opTable : ∀ row ∈ opTable, row.op = encodeOp row.instr := by decide

theorem decodeOp_eq_some_iff {op : Byte} {i : Instr} : decodeOp op = some i ↔ op = encodeOp i := by
  constructor
  · intro h
    obtain ⟨row, hfind, rfl⟩ := Option.map_eq_some_iff.1 h
    have hop : row.op = op := by simpa using List.find?_some hfind
    rw [← hop, op_of_mem_opTable row (List.mem_of_find?_eq_some hfind)]
  · rintro rfl
    cases i <;> rfl

theorem decodeOp_encodeOp (i : Instr) : decodeOp (encodeOp i) = some i := decodeOp_eq_some_iff.2 rfl

theorem decodeOp_eq_none_iff {op : Byte} : decodeOp op = none ↔ ∀ i, op ≠ encodeOp i := by
  simp only [Option.eq_none_iff_forall_ne_some, ne_eq, decodeOp_eq_some_iff]

theorem decode_cons_named {op : Byte} {i : Instr} (h : decodeOp op = some i) (rest : List Byte) :
    decode (op :: rest) = .ok (i, rest) := by
  rw [decode, h]

theorem decode_cons_unnamed {op : Byte} (h : decodeOp op = none) (rest : List Byte) :
    decode (op :: rest) = .error (.noSuchOperation op) := by
  rw [decode, h]

/-- Settles O1: each table word is the encoding of its operation. -/
theorem opValuesNameTheirOperations : Obligations.OpValuesNameTheirOperations :=
  ⟨decodeTableWord_encodeOp .crc8, decodeTableWord_encodeOp .crc16,
    decodeTableWord_encodeOp .buildFrame, decodeTableWord_encodeOp .isDeltaModel,
    decodeTableWord_encodeOp .acSwitch, decodeTableWord_encodeOp .getPd,
    decodeTableWord_encodeOp .getDcInType, decodeTableWord_encodeOp .getDcInCurrent⟩

/-- Settles O2: a decoded list has a first byte, and that byte is the encoding of the operation it names. -/
theorem decodeAcceptsExactlyEncodings : Obligations.DecodeAcceptsExactlyEncodings := by
  intro bytes rest i
  constructor
  · intro h
    cases bytes with
    | nil => cases h
    | cons op tail =>
      cases hop : decodeOp op with
      | none =>
        rw [decode_cons_unnamed hop] at h
        cases h
      | some j =>
        rw [decode_cons_named hop] at h
        cases h
        rw [decodeOp_eq_some_iff.1 hop]
        rfl
  · rintro rfl
    exact decode_encode_append i rest

/-! ### The names -/

/-- Every name of the table of R59: the mnemonics, then the document's spellings. -/
def requestNames : List String :=
  opTable.map (fun row => row.mnemonic) ++ opTable.filterMap (fun row => row.spelling)

theorem instrOfName_eq_none {name : String} (h : name ∉ requestNames) : instrOfName name = none := by
  rw [instrOfName, Option.map_eq_none_iff, List.find?_eq_none]
  intro row hrow hname
  rw [Bool.or_eq_true, beq_iff_eq, beq_iff_eq] at hname
  refine h (List.mem_append.2 ?_)
  cases hname with
  | inl hmnemonic => exact .inl (List.mem_map.2 ⟨row, hrow, hmnemonic⟩)
  | inr hspelling => exact .inr (List.mem_filterMap.2 ⟨row, hrow, hspelling⟩)

/-- Settles O4: the fifteen names by the table, and every other name by its absence from it. -/
theorem mnemonicsNameTheirOperations : Obligations.MnemonicsNameTheirOperations :=
  ⟨by decide, by decide, by decide, by decide, by decide, by decide, by decide, by decide, by decide,
    by decide, by decide, by decide, by decide, by decide, by decide,
    fun _ hname => instrOfName_eq_none hname⟩

/-! ### A request to an idle block -/

theorem callOperation_named {op : Byte} {i : Instr} {s : State} (hidle : s.busy = false)
    (hop : decodeOp op = some i) : callOperation op s = exec i s := by
  rw [callOperation, if_neg (by simp [hidle]), decode_cons_named hop]

theorem callOperation_unnamed {op : Byte} {s : State} (hidle : s.busy = false)
    (hop : decodeOp op = none) : callOperation op s = .refused (.noSuchOperation op) := by
  rw [callOperation, if_neg (by simp [hidle]), decode_cons_unnamed hop]

theorem issueOperation_unnamed {op : Byte} {s : State} (hidle : s.busy = false)
    (hop : decodeOp op = none) : issueOperation op s = .refused (.noSuchOperation op) := by
  rw [issueOperation, if_neg (by simp [hidle]), decode_cons_unnamed hop]

theorem encodeOp_mem_opValues (i : Instr) :
    encodeOp i ∈ [0x01#8, 0x02#8, 0x03#8, 0x10#8, 0x11#8, 0x12#8, 0x13#8, 0x14#8] := by
  cases i <;> decide

/-- Settles O3: an `OP` value outside the table is no operation's encoding, so it names none. -/
theorem unnamedOpIsRefused : Obligations.UnnamedOpIsRefused := by
  intro s op rest hop hidle hs
  have hnone : decodeOp op = none :=
    decodeOp_eq_none_iff.2 fun i hi => hop (hi ▸ encodeOp_mem_opValues i)
  have hidle' : (s.setScript rest).busy = false := hidle
  cases hs with
  | inl hcall => rw [step_of_script hcall, callerMove, callOperation_unnamed hidle' hnone]
  | inr hissue => rw [step_of_script hissue, callerMove, issueOperation_unnamed hidle' hnone]

theorem step_call_named {op : Byte} {i : Instr} {s : State} {rest : List CallerMove}
    (hidle : s.busy = false) (hs : s.script = .call op :: rest) (hop : decodeOp op = some i) :
    step s = exec i (s.setScript rest) := by
  have hidle' : (s.setScript rest).busy = false := hidle
  rw [step_of_script hs, callerMove, callOperation_named hidle' hop]

end Sys2Proof.Machine
end

section
/-! SUPPORT. The layout of a frame: its header, its bytes by offset, and its bits by the byte they
stand in (spec/30_encoding.md R50, R51, R55). -/

namespace Sys2Proof.Machine

/-! ### The parts of a frame -/

theorem frameHead_eq {n : Nat} (hn : n ≤ 65535) :
    frameHead n = [0xAA#8, 0x02#8, BitVec.ofNat 8 (n % 256), BitVec.ofNat 8 (n / 256)] := by
  rw [frameHead, ← lengthBytes_eq hn]
  rfl

theorem length_frameHead (n : Nat) : (frameHead n).length = 4 := rfl

/-- The 13 header bytes of a frame with an `n`-byte payload: the first four, their CRC-8 and the
mid-header (R55). -/
def frameHeader (table8 : Byte → Byte) (n : Nat) : List Byte :=
  frameHead n ++ [crc8 table8 (frameHead n)] ++ midHeader

theorem length_frameHeader (table8 : Byte → Byte) (n : Nat) : (frameHeader table8 n).length = 13 := rfl

/-- Every byte of a frame, in the order of R50. -/
theorem frame_eq_layout (p : Params) (d : Descriptor) :
    frame p d = frameHeader p.table8 d.payload.length ++ [d.dst, d.cmdSet, d.cmdId] ++ d.payload ++
      le16 (crc16 p.table16 (frameBody p.table8 d)) := by
  rw [frame, frameBody, frameHeader]

theorem take_frame_header (p : Params) (d : Descriptor) :
    (frame p d).take 13 = frameHeader p.table8 d.payload.length := by
  rw [frame_eq_layout, List.append_assoc, List.append_assoc]
  exact List.take_left' (length_frameHeader _ _)

theorem take_frame_head (p : Params) (d : Descriptor) :
    (frame p d).take 4 = frameHead d.payload.length := by
  have htake : (frame p d).take 4 = ((frame p d).take 13).take 4 := by rw [List.take_take]; rfl
  rw [htake, take_frame_header, frameHeader, List.append_assoc]
  exact List.take_left' (length_frameHead _)

theorem take_frame_body (p : Params) (d : Descriptor) :
    (frame p d).take (16 + d.payload.length) = frameBody p.table8 d :=
  List.take_left' (length_frameBody p.table8 d)

/-! ### The bytes of a frame -/

theorem frame_getElem?_header (p : Params) (d : Descriptor) {k : Nat} (hk : k < 13) :
    (frame p d)[k]? = (frameHeader p.table8 d.payload.length)[k]? := by
  rw [← take_frame_header p d, List.getElem?_take_of_lt hk]

theorem frame_getElem?_payload (p : Params) (d : Descriptor) {i : Nat} (hi : i < d.payload.length) :
    (frame p d)[16 + i]? = d.payload[i]? := by
  rw [frame, List.getElem?_append_left (by rw [length_frameBody]; omega), frameBody,
    List.getElem?_append_right (by simp [frameHead, le16, midHeader])]
  congr 1
  simp [frameHead, le16, midHeader]

theorem frame_getElem?_trailer (p : Params) (d : Descriptor) (k : Nat) :
    (frame p d)[16 + d.payload.length + k]? =
      (le16 (crc16 p.table16 ((frame p d).take (16 + d.payload.length))))[k]? := by
  rw [take_frame_body, frame, ← length_frameBody p.table8 d, List.getElem?_append_right (by omega),
    Nat.add_sub_cancel_left]

/-- Settles O31: the first 16 bytes are constants and parts of the descriptor, with the two length bytes
of `frameHead`; the payload and the trailer follow. -/
theorem frameBytesAreLaidOut : Obligations.FrameBytesAreLaidOut := by
  rintro p d n rfl hn
  have hhead : ∀ k, k < 4 → (frame p d)[k]? =
      [0xAA#8, 0x02#8, BitVec.ofNat 8 (d.payload.length % 256),
        BitVec.ofNat 8 (d.payload.length / 256)][k]? := fun k hk => by
    rw [← frameHead_eq hn, ← take_frame_head p d, List.getElem?_take_of_lt hk]
  have hcheck : (frame p d)[4]? = some (crc8 p.table8 ((frame p d).take 4)) := by
    rw [take_frame_head]; rfl
  have hzeros : ∀ k, 6 ≤ k → k ≤ 11 → (frame p d)[k]? = some 0x00#8 := fun k hlo hhi => by
    rw [frame_getElem?_header p d (by omega)]
    interval_cases k <;> rfl
  have htrailer := frame_getElem?_trailer p d
  refine ⟨length_frame p d, hhead 0 (by decide), hhead 1 (by decide), hhead 2 (by decide),
    hhead 3 (by decide), hcheck, rfl, hzeros, rfl, rfl, rfl, rfl,
    fun i hi => frame_getElem?_payload p d hi, htrailer 0, ?_⟩
  rw [show 17 + d.payload.length = 16 + d.payload.length + 1 by omega]
  exact htrailer 1

/-- Settles O34: the 13 header bytes are a function of `TABLE8` and the payload's length. -/
theorem headerCheckDependsOnLengthOnly : Obligations.HeaderCheckDependsOnLengthOnly := by
  intro p p' d d' ht8 hlen hn
  refine ⟨?_, ?_⟩
  · rw [← frameHead_eq hn]
    rfl
  · rw [take_frame_header, take_frame_header, ht8, hlen]

/-! ### The bits of a frame -/

theorem frameBit_of_byte {f : List Byte} {i j k : Nat} {b : Byte} (hb : f[i]? = some b) (hj : j < 8)
    (hk : k = 8 * i + j) : frameBit f k = some (b.getLsbD j) := by
  rw [frameBit, show k / 8 = i by omega, show k % 8 = j by omega, hb, Option.map_some]

theorem getLsbD_lengthLow (n : Nat) {j : Nat} (hj : j < 8) :
    (BitVec.ofNat 8 (n % 256)).getLsbD j = n.testBit j := by
  rw [BitVec.getLsbD_ofNat, show 256 = 2 ^ 8 from rfl, Nat.testBit_mod_two_pow]
  simp [hj]

theorem getLsbD_lengthHigh (n : Nat) {j : Nat} (hj : j < 8) :
    (BitVec.ofNat 8 (n / 256)).getLsbD j = n.testBit (8 + j) := by
  rw [BitVec.getLsbD_ofNat, show 256 = 2 ^ 8 from rfl, Nat.testBit_div_two_pow, Nat.add_comm]
  simp [hj]

theorem getLsbD_byteOfWord16 (v : Word16) (start : Nat) {j : Nat} (hj : j < 8) :
    (v.extractLsb' start 8).getLsbD j = v.getLsbD (start + j) := by
  rw [BitVec.getLsbD_extractLsb', decide_eq_true hj, Bool.true_and]

/-- Settles O32: each row of the bit table is a row of the byte table, read by its bits. -/
theorem frameBitsAreLaidOut : Obligations.FrameBitsAreLaidOut := by
  intro p d n hlen hn
  obtain ⟨-, hmagic, hversion, hlow, hhigh, hcheck, hmid, hzeros, hmarker, hdst, hset, hid, hpayload,
    hcrcLow, hcrcHigh⟩ := frameBytesAreLaidOut p d n hlen hn
  refine ⟨fun j hj => ⟨frameBit_of_byte hmagic hj (by omega), frameBit_of_byte hversion hj (by omega),
    ?low, ?high, frameBit_of_byte hcheck hj (by omega), frameBit_of_byte hmid hj (by omega),
    frameBit_of_byte hmarker hj (by omega), frameBit_of_byte hdst hj (by omega),
    frameBit_of_byte hset hj (by omega), frameBit_of_byte hid hj (by omega), fun i hi => ?payload,
    ?crcLow, ?crcHigh⟩, fun k hlo hhi => ?zeros⟩
  case low => rw [← getLsbD_lengthLow n hj]; exact frameBit_of_byte hlow hj (by omega)
  case high => rw [← getLsbD_lengthHigh n hj]; exact frameBit_of_byte hhigh hj (by omega)
  case payload =>
    have hbyte : d.payload[i]? = some d.payload[i] := List.getElem?_eq_getElem (hlen ▸ hi)
    rw [hbyte]
    exact frameBit_of_byte ((hpayload i hi).trans hbyte) hj (by omega)
  case crcLow =>
    have hbit := frameBit_of_byte (k := 128 + 8 * n + j) hcrcLow hj (by omega)
    rwa [getLsbD_byteOfWord16 _ 0 hj, Nat.zero_add] at hbit
  case crcHigh =>
    rw [← getLsbD_byteOfWord16 _ 8 hj]
    exact frameBit_of_byte hcrcHigh hj (by omega)
  case zeros =>
    rw [frameBit_of_byte (hzeros (k / 8) (by omega) (by omega)) (Nat.mod_lt k (by omega)) (by omega),
      BitVec.getLsbD_zero]

end Sys2Proof.Machine
end

section
/-! SUPPORT. A well-formed request on an idle block: its operands are presented, then its operation is
called and ends with the functional model's result of these operands (spec/30_encoding.md R59). -/

namespace Sys2Proof.Machine

/-- The well-formed requests: each operation with the operand form it takes (the table of R59). -/
inductive TakesItsOperands : Request → Prop
  /-- `CRC8` with its input. -/
  | crc8 (bytes : List Byte) : TakesItsOperands ⟨.crc8, .data bytes⟩
  /-- `CRC16` with its input. -/
  | crc16 (bytes : List Byte) : TakesItsOperands ⟨.crc16, .data bytes⟩
  /-- `BUILD_FRAME` with a descriptor. -/
  | buildFrame (dst cmdSet cmdId : Byte) (payload : Option (List Byte)) :
    TakesItsOperands ⟨.buildFrame, .descriptor dst cmdSet cmdId payload⟩
  /-- `IS_DELTA_MODEL` with a product code. -/
  | isDeltaModel (code : Int) : TakesItsOperands ⟨.isDeltaModel, .product code⟩
  /-- `AC_SWITCH` with a toggle. -/
  | acSwitch (on : Bool) : TakesItsOperands ⟨.acSwitch, .toggle on⟩
  /-- `GET_PD` without operands. -/
  | getPd : TakesItsOperands ⟨.getPd, .none⟩
  /-- `GET_DC_IN_TYPE` with a product code. -/
  | getDcInType (code : Int) : TakesItsOperands ⟨.getDcInType, .product code⟩
  /-- `GET_DC_IN_CURRENT` with a product code. -/
  | getDcInCurrent (code : Int) : TakesItsOperands ⟨.getDcInCurrent, .product code⟩

theorem takesItsOperands_of_wellFormed {r : Request} (h : r.wellFormed = true) : TakesItsOperands r := by
  obtain ⟨i, o⟩ := r
  cases i with
  | crc8 => cases o with
    | data bytes => exact .crc8 bytes
    | _ => cases h
  | crc16 => cases o with
    | data bytes => exact .crc16 bytes
    | _ => cases h
  | buildFrame => cases o with
    | descriptor dst cmdSet cmdId payload => exact .buildFrame dst cmdSet cmdId payload
    | _ => cases h
  | isDeltaModel => cases o with
    | product code => exact .isDeltaModel code
    | _ => cases h
  | acSwitch => cases o with
    | toggle on => exact .acSwitch on
    | _ => cases h
  | getPd => cases o with
    | none => exact .getPd
    | _ => cases h
  | getDcInType => cases o with
    | product code => exact .getDcInType code
    | _ => cases h
  | getDcInCurrent => cases o with
    | product code => exact .getDcInCurrent code
    | _ => cases h

/-! ### The operation on operands just presented -/

theorem exec_completes {i : Instr} {s : State}
    (h : i = .crc8 ∨ i = .crc16 ∨ i = .buildFrame → s.InputListed) : ∃ t, exec i s = .next t := by
  obtain hend | ⟨hreads, a, ha, hnone, -⟩ := operationsStopOnlyOnMissingInput i s
  · exact hend
  · have hsome := h hreads a ha
    rw [hnone] at hsome
    cases hsome

/-- An operation that reads its input finds all of it, once its operands have been presented. -/
theorem TakesItsOperands.inputListed {r : Request} (h : TakesItsOperands r) (s : State)
    (hreads : r.instr = .crc8 ∨ r.instr = .crc16 ∨ r.instr = .buildFrame) :
    (s.present r.operands).InputListed := by
  cases h with
  | crc8 | crc16 => exact s.inputListed_writeInput _
  | buildFrame => exact s.inputListed_writeDescriptor _
  | isDeltaModel | acSwitch | getPd | getDcInType | getDcInCurrent => simp at hreads

/-- What is delivered on operands just presented depends on no register. -/
theorem TakesItsOperands.delivered {r : Request} (h : TakesItsOperands r) (s : State) :
    (s.present r.operands).delivered r.instr = requestResult Config.params r := by
  cases h with
  | crc8 bytes =>
    exact congrArg (fun bs => Result.bytes [Machine.crc8 Config.params.table8 bs])
      (s.inBytes_writeInput bytes)
  | crc16 bytes =>
    exact congrArg (fun bs => Result.bytes (le16 (Machine.crc16 Config.params.table16 bs)))
      (s.inBytes_writeInput bytes)
  | buildFrame dst cmdSet cmdId payload =>
    refine (State.frameResult_eq_buildFrame Config.params (s.inputListed_writeDescriptor _)).trans ?_
    rw [State.descriptor_writeDescriptor]
    rfl
  | isDeltaModel | acSwitch | getPd | getDcInType | getDcInCurrent => rfl

/-- An operation that has ended leaves the block idle and the caller's moves as they were. -/
theorem Ends.idle {i : Instr} {s t : State} (h : Ends i s t) : t.busy = false ∧ t.script = s.script := by
  cases h with
  | crc8 | crc16 | isDeltaModel => exact ⟨rfl, rfl⟩
  | buildFrame =>
    exact ⟨by rw [State.busy, State.frameEnded_todo]; rfl, State.frameEnded_script _ _⟩
  | catalog =>
    exact ⟨by rw [State.busy, State.frameEnded_todo]; rfl, State.frameEnded_script _ _⟩

/-- A well-formed request just presented is run to the functional model's result. -/
theorem exec_request {r : Request} (h : TakesItsOperands r) (s : State) :
    ∃ t, exec r.instr (s.present r.operands) = .next t ∧
      t.result = some (requestResult Config.params r) ∧ t.busy = false ∧
      t.script = (s.present r.operands).script := by
  obtain ⟨t, ht⟩ := exec_completes (h.inputListed s)
  obtain ⟨hidle, hscript⟩ := (ends_of_exec ht).idle
  exact ⟨t, ht, h.delivered s ▸ (exec_delivers ht).result, hidle, hscript⟩

/-! ### The two steps -/

theorem run_two {s t u : State} (hst : step s = .next t) (htu : step t = .next u) :
    Sys2Proof.core.run 2 s = .next u := by
  have hst' : Sys2Proof.core.step s = .next t := hst
  have htu' : Sys2Proof.core.step t = .next u := htu
  simp only [Host.Core.run, hst', htu']

theorem step_present {s : State} {o : Operands} {rest : List CallerMove} (hidle : s.busy = false)
    (hs : s.script = .present o :: rest) : step s = .next ((s.setScript rest).present o) := by
  rw [step_of_script hs, callerMove, if_neg (by simp [hidle])]

/-- Presenting operands neither looks at the caller's moves nor changes them. -/
theorem State.present_setScript (s : State) (l : List CallerMove) (o : Operands) :
    (s.setScript l).present o = (s.present o).setScript l := by
  cases o <;> rfl

theorem State.present_busy (s : State) (o : Operands) : (s.present o).busy = s.busy := by
  obtain ⟨-, -, htodo⟩ := s.present_life o
  rw [State.busy, State.busy, htodo]

/-- Settles O56: the first step presents the operands; the second is the operation's meaning on them. -/
theorem requestsGiveTheFunctionalResult : Obligations.RequestsGiveTheFunctionalResult := by
  intro r s rest hwf hidle hs
  obtain ⟨t, ht, hresult, htidle, hscript⟩ :=
    exec_request (takesItsOperands_of_wellFormed hwf) (s.setScript rest)
  have hpresent := step_present hidle hs
  rw [s.present_setScript] at ht hscript hpresent
  have hcall := step_call_named (i := r.instr) (rest := rest)
    (s := (s.present r.operands).setScript (.call (encodeOp r.instr) :: rest))
    ((s.present_busy _).trans hidle) rfl (decodeOp_encodeOp _)
  exact ⟨t, run_two hpresent (hcall.trans ht), hresult, htidle, hscript⟩

end Sys2Proof.Machine
end

section
/-! SUPPORT. The operations as a caller meets them: what a call and an issue put under way on an idle block,
what an ended operation delivers and when it raises, and the table index of CG16
(spec/40_common_operations.md). -/

namespace Sys2Proof.Machine

/-! ### A named request to an idle block -/

theorem issueOperation_named {op : Byte} {i : Instr} {s : State} (hidle : s.busy = false)
    (hop : decodeOp op = some i) : issueOperation op s = .next (s.start Config.params i) := by
  rw [issueOperation, if_neg (by simp [hidle]), decode_cons_named hop]

theorem step_issue_named {op : Byte} {i : Instr} {s : State} {rest : List CallerMove}
    (hidle : s.busy = false) (hs : s.script = .issue op :: rest) (hop : decodeOp op = some i) :
    step s = .next ((s.setScript rest).start Config.params i) := by
  have hidle' : (s.setScript rest).busy = false := hidle
  rw [step_of_script hs, callerMove, issueOperation_named hidle' hop]

theorem tableWordOp_toNat (op : Byte) : tableWordOp 8 op.toNat = op := by
  rw [tableWordOp, Nat.mod_eq_of_lt op.isLt, BitVec.ofNat_toNat, BitVec.setWidth_eq]

theorem State.todo_of_idle {s : State} (h : s.busy = false) : s.todo = [] := by
  simpa [State.busy] using h

/-- Settles O10: a table word placed as the next request is a call, and taking it gives back the state. -/
theorem stepRunsTheCalledOperation : Obligations.StepRunsTheCalledOperation := by
  refine ⟨fun s op i rest => step_call_named, fun s i hidle => ?_⟩
  have hop : decodeOp (tableWordOp 8 (encodeOp i).toNat) = some i := by
    rw [tableWordOp_toNat, decodeOp_encodeOp]
  rw [State.withFetchWord, State.setTodo_of_todo (State.todo_of_idle hidle)]
  exact step_call_named (rest := s.script) hidle rfl hop

/-- The micro-steps of an operation do not depend on the caller's moves. -/
theorem microProgram_setScript (p : Params) (i : Instr) (s : State) (l : List CallerMove) :
    microProgram p i (s.setScript l) = microProgram p i s := by
  cases i <;> rfl

/-- Every operation has a micro-step to do. -/
theorem State.busy_start (p : Params) (i : Instr) (s : State) : (s.start p i).busy = true := by
  cases i <;> rfl

/-- Settles O11: an issue does nothing but start the operation it names. -/
theorem issuePutsTheOperationUnderWay : Obligations.IssuePutsTheOperationUnderWay := by
  intro s op i rest hidle hs hop
  refine ⟨_, step_issue_named hidle hs hop, rfl, State.busy_start _ _ _, ?_⟩
  rw [State.start, microProgram_setScript]
  rfl

/-! ### The results -/

theorem exec_buildFrame_of_gt {s : State} (h : 65535 < s.ilen) :
    exec .buildFrame s = .next (s.issue.raisePayloadTooLarge s.ilen) := by
  have hissue : 65535 < s.issue.ilen := h
  rw [exec, execBuildFrame, State.missingPayload_eq_none (.inr h), whenReadable_none,
    frameSteps_of_gt _ hissue, State.issue_ilen]

/-- Settles O39: no byte of `IN` is read, and after the issue the error writes only `STATUS` and the model's
own fields. -/
theorem overlongPayloadRaises : Obligations.OverlongPayloadRaises := by
  intro s h
  rw [exec_buildFrame_of_gt h]
  refine ⟨rfl, fun t ht => ?_, rfl⟩
  cases ht
  rfl

/-- With the input there, an operation delivers the functional model's result. -/
theorem State.delivered_eq_opResult (i : Instr) {s : State} (h : s.InputListed) :
    s.delivered i = opResult Config.params i s.operandValues := by
  cases i with
  | buildFrame => exact State.frameResult_eq_buildFrame Config.params h
  | crc8 | crc16 | isDeltaModel | acSwitch | getPd | getDcInType | getDcInCurrent => rfl

/-- Settles O47: with its input there an operation ends, and what it delivers is the functional model's. -/
theorem everyOperationMeetsTheFunctionalModel : Obligations.EveryOperationMeetsTheFunctionalModel := by
  intro i s h
  obtain ⟨t, ht⟩ := exec_completes (i := i) fun _ => h
  exact ⟨t, ht, State.delivered_eq_opResult i h ▸ (exec_delivers ht).result⟩

/-! ### When an operation raises -/

theorem Result.status_done (r : Result) : r.status.done = true := by
  cases r <;> rfl

/-- In `t` an operation has ended, with the error for the length `ILEN` exactly when `overlong`. -/
structure State.RaisesIff (t : State) (overlong : Prop) : Prop where
  /-- `ERR` says whether. -/
  err : t.status.err = true ↔ overlong
  /-- The error carries the length. -/
  raised : t.status.err = true → t.raised = some (.payloadTooLarge t.ilen)
  /-- Without `ERR` no error is surfaced. -/
  notRaised : t.status.err = false → t.raised = none

theorem State.raisesIff_of_not_err {t : State} {overlong : Prop} (hs : t.status.err = false)
    (hr : t.raised = none) (hn : ¬overlong) : t.RaisesIff overlong where
  err := by simp [hs, hn]
  raised := by simp [hs]
  notRaised _ := hr

/-- The end of a frame, from the issued state (R129, R160). -/
theorem State.frameEnded_raisesIff (p : Params) {s : State} (hi : s.Issued) (hr : s.raised = none) :
    (s.frameEnded p).RaisesIff (65535 < s.ilen) := by
  by_cases h : 65535 < s.ilen
  · rw [State.frameEnded_of_gt p h]
    exact ⟨by simp [h], fun _ => rfl, nofun⟩
  · rw [State.frameEnded_of_le p h]
    exact State.raisesIff_of_not_err (congrArg Status.err hi.status) hr h

/-- Operation `i`, called in `s`, asks for a frame whose payload is too long. -/
def State.AsksOverlong (i : Instr) (s : State) : Prop :=
  (i = .buildFrame ∧ 65535 < s.ilen) ∨ (i = .getDcInCurrent ∧ 65535 < Config.dccurPayload.length)

/-- Of the catalog's payloads only `DCCUR_PAYLOAD` can be too long. -/
theorem asksOverlong_iff_of_catalogDescriptor {i : Instr} {s : State} {d : Descriptor}
    (hd : catalogDescriptor Config.params i s = some d) :
    s.AsksOverlong i ↔ 65535 < d.payload.length := by
  have hcurrent : ∀ b : Bool, (if b then dcInCurrentDelta Config.params
      else dcInCurrentOther Config.params).payload = Config.dccurPayload := fun b => by
    cases b <;> rfl
  have hshort : ∀ b : Bool, (if b then dcInTypeDelta else dcInTypeOther).payload.length = 1 := fun b => by
    cases b <;> rfl
  unfold State.AsksOverlong
  cases i with
  | crc8 | crc16 | buildFrame | isDeltaModel => cases hd
  | acSwitch => cases hd; simp [acSwitchDescriptor, togglePayload]
  | getPd => cases hd; simp [getPdDescriptor]
  | getDcInType => cases hd; simp [hshort]
  | getDcInCurrent => cases hd; simp [hcurrent]

theorem Ends.raisesIff {i : Instr} {s t : State} (h : Ends i s t) : t.RaisesIff (s.AsksOverlong i) := by
  cases h with
  | crc8 | crc16 | isDeltaModel =>
    exact State.raisesIff_of_not_err rfl rfl (by simp [State.AsksOverlong])
  | buildFrame =>
    have hiff : s.AsksOverlong .buildFrame ↔ 65535 < s.issue.ilen := by simp [State.AsksOverlong]
    rw [hiff]
    exact State.frameEnded_raisesIff _ s.issued_issue rfl
  | catalog hd =>
    rw [asksOverlong_iff_of_catalogDescriptor hd]
    exact State.frameEnded_raisesIff _ (s.issued_catalogReady i _) rfl

/-- Settles O49: every result comes with `DONE`, and the end states say where the error is raised. -/
theorem onlyOverlongPayloadsRaise : Obligations.OnlyOverlongPayloadsRaise := by
  intro i s t h
  have hend := ends_of_exec h
  obtain ⟨herr, hraised, hnone⟩ := hend.raisesIff
  refine ⟨?_, hend.idle.1, herr, hraised, hnone⟩
  rw [(exec_delivers h).status, Result.status_done]

/-! ### The table index -/

/-- The mask of a CG8 index keeps every bit (R82). -/
theorem cg8Next_eq (t : Byte → Byte) (acc b : Byte) : cg8Next t acc b = t (acc ^^^ b) := by
  have hmask : (0xFF#8) = BitVec.allOnes 8 := rfl
  rw [cg8Next, hmask, BitVec.and_allOnes]

/-- The mask of a CG16 index keeps bits 7..0, where the zero-extended byte is the byte (R81, R82). -/
theorem cg16Index_eq (acc : Word16) (b : Byte) : cg16Index acc b = lowByte acc ^^^ b := by
  have hmask : (0x00FF#16).setWidth 8 = BitVec.allOnes 8 := rfl
  have hbyte : (zext16 b).setWidth 8 = b := by
    rw [zext16, BitVec.setWidth_setWidth_of_le _ (by omega), BitVec.setWidth_eq]
  have hlow : acc.setWidth 8 = lowByte acc := BitVec.eq_of_toNat_eq (by simp [lowByte])
  rw [cg16Index, BitVec.setWidth_and, hmask, BitVec.and_allOnes, BitVec.setWidth_xor, hbyte, hlow]

/-- Settles O22: on the index's eight bits each mask is all ones. -/
theorem maskedIndexIsTheLowByte : Obligations.MaskedIndexIsTheLowByte :=
  ⟨cg16Index_eq, cg8Next_eq⟩

end Sys2Proof.Machine
end

section
/-! SUPPORT. An issued operation in micro-steps reaches the end of its call. A list of micro-steps is set
against the loop or the step of `exec` it stands for (`Runs`), the lists are joined to programs, and a
program is done one micro-step at a time (`ReachesWithin`). -/

namespace Sys2Proof.Machine

/-! ### Reaching an outcome -/

/-- At most `k` micro-steps from `s` answer `o`. -/
def ReachesWithin (p : Params) (k : Nat) (s : State) (o : Host.Outcome State Fault Refusal) : Prop :=
  ∃ n, n ≤ k ∧ microRun p n s = o

section
variable {p : Params} {s t : State} {o : Host.Outcome State Fault Refusal} {k : Nat}

theorem ReachesWithin.mono (h : ReachesWithin p k s o) {k' : Nat} (hk : k ≤ k') :
    ReachesWithin p k' s o := by
  obtain ⟨n, hn, hrun⟩ := h
  exact ⟨n, Nat.le_trans hn hk, hrun⟩

theorem ReachesWithin.refl (p : Params) (s : State) : ReachesWithin p 0 s (.next s) :=
  ⟨0, Nat.le_refl 0, microRun_zero p s⟩

/-- A run that reaches `t`, and one on from there. -/
theorem ReachesWithin.after (h : ReachesWithin p k t o) {n : Nat} (hn : microRun p n s = .next t) :
    ReachesWithin p (n + k) s o := by
  obtain ⟨m, hm, hrun⟩ := h
  exact ⟨n + m, Nat.add_le_add_left hm n, (microRun_add hn m).trans hrun⟩

theorem microRun_one (h : microStep p s = .next t) : microRun p 1 s = .next t :=
  (microRun_succ 0 h).trans (microRun_zero p t)

theorem reachesWithin_finish (p : Params) (s : State) :
    ReachesWithin p 1 (s.setTodo [.finish]) (.next s.finish) :=
  ⟨1, Nat.le_refl 1, microRun_one (microStep_ready p rfl [])⟩

theorem reachesWithin_missing {m : Micro} {f : Fault} (h : m.missingRead s = some f)
    (rest : List Micro) : ReachesWithin p 1 (s.setTodo (m :: rest)) (.fault f) :=
  ⟨1, Nat.le_refl 1, microRun_succ_fault 0 (microStep_missing p h rest)⟩

end

/-! ### Lists of micro-steps -/

/-- A micro-step that only performs: it neither extends nor ends what is to do. -/
abbrev Micro.IsPlain (m : Micro) : Prop := m ≠ .checkLength ∧ m ≠ .finish

/-- The plain micro-steps that read neither `IN` nor `OUT`. -/
def Micro.readsNothing (m : Micro) : Bool :=
  match m with
  | .cg8Input | .cg8Output _ | .cg16Input | .cg16Output _ | .copyInput | .checkLength | .finish => false
  | .cg8Clear | .emitAcc8 | .cg16Clear | .emitAcc16Low | .emitAcc16High | .predicate
  | .writeDescriptor _ | .chooseDescriptor _ _ | .emitByte _ | .emitLengthLow | .emitLengthHigh
  | .emitDst | .emitCmdSet | .emitCmdId | .setStep _ => true

theorem Micro.facts_of_readsNothing {m : Micro} (h : m.readsNothing = true) :
    m.IsPlain ∧ ∀ s, m.missingRead s = none := by
  cases m with
  | cg8Input | cg8Output | cg16Input | cg16Output | copyInput | checkLength | finish => cases h
  | _ => exact ⟨⟨nofun, nofun⟩, fun _ => rfl⟩

/-- The micro-steps `l`, each read of which can be made, take `s` to `t`. -/
structure Runs (p : Params) (l : List Micro) (s t : State) : Prop where
  /-- Each read can be made when its turn comes. -/
  ready : Ready p l s
  /-- What is to do is left to the machine. -/
  plain : ∀ m ∈ l, m.IsPlain
  /-- Their effects, one after another. -/
  effect : runMicro p l s = t

section
variable {p : Params} {l k : List Micro} {s t u : State}

theorem Runs.append (h : Runs p l s t) (h' : Runs p k t u) : Runs p (l ++ k) s u where
  ready := ready_append.2 ⟨h.ready, h.effect ▸ h'.ready⟩
  plain m hm := (List.mem_append.1 hm).elim (h.plain m) (h'.plain m)
  effect := by rw [runMicro_append, h.effect, h'.effect]

/-- Micro-steps that read no buffer always run. -/
theorem runs_of_reads_nothing (hl : l.all Micro.readsNothing = true) (h : runMicro p l s = t) :
    Runs p l s t where
  ready := ready_of_no_reads (fun m hm => (Micro.facts_of_readsNothing (List.all_eq_true.1 hl m hm)).2) s
  plain m hm := (Micro.facts_of_readsNothing (List.all_eq_true.1 hl m hm)).1
  effect := h

theorem Runs.reachesWithin (h : Runs p l s t) {rest : List Micro} {n : Nat}
    {o : Host.Outcome State Fault Refusal} (ho : ReachesWithin p n (t.setTodo rest) o) :
    ReachesWithin p (l.length + n) (s.setTodo (l ++ rest)) o := by
  refine ho.after ?_
  rw [← h.effect]
  exact microRun_ready p l rest s h.ready (fun hm => (h.plain _ hm).1 rfl) (fun hm => (h.plain _ hm).2 rfl)

/-- A program that ends with `finish`. -/
theorem Runs.finishes (h : Runs p l s t) :
    ReachesWithin p (l.length + 1) (s.setTodo (l ++ [.finish])) (.next t.finish) :=
  h.reachesWithin (reachesWithin_finish p t)

theorem Runs.wp (h : Runs p l s t) : t.wp = s.wp + appendCount l := by
  rw [← h.effect, appendCount, (runMicro_counters h.ready).1]

theorem Runs.rp (h : Runs p l s t) : t.rp = s.rp + (l.map Micro.inputs).sum := by
  rw [← h.effect, (runMicro_counters h.ready).2]

theorem Runs.operands (h : Runs p l s t) (hl : ∀ m ∈ l, m.writesOperands = false) :
    s.SameOperands t := h.effect ▸ runMicro_operands s hl

theorem Runs.outputListed (h : Runs p l s t) (hs : s.OutputListed) : t.OutputListed :=
  h.effect ▸ runMicro_outputListed p l hs

end

theorem State.SameOperands.inputListed {s t : State} (h : s.SameOperands t) (hs : s.InputListed) :
    t.InputListed := by
  obtain ⟨hin, hilen, -⟩ := h
  unfold State.InputListed
  rw [hin, hilen]
  exact hs

theorem State.SameOperands.missingInput {s t : State} (h : s.SameOperands t) :
    t.missingInput = s.missingInput := by
  obtain ⟨hin, hilen, -⟩ := h
  rw [State.missingInput, State.missingInput, hin, hilen]

/-! ### The loops -/

/-- The micro-step `m` uses `IN[RP]` as `use` does (R86 form a). -/
structure Micro.ReadsInput (p : Params) (m : Micro) (use : State → Byte → State) : Prop where
  /-- It is one of the three that read the input. -/
  reads : m = .cg8Input ∨ m = .cg16Input ∨ m = .copyInput
  /-- The use leaves the input and `RP` alone. -/
  inputUse : InputUse use
  /-- It is that use. -/
  perform : ∀ s, m.perform p s = s.fromInput use

theorem readsInput_cg8Input (p : Params) : Micro.ReadsInput p .cg8Input (State.cg8Update p) :=
  ⟨.inl rfl, inputUse_cg8Update p, fun _ => rfl⟩

theorem readsInput_cg16Input (p : Params) : Micro.ReadsInput p .cg16Input (State.cg16Update p) :=
  ⟨.inr (.inl rfl), inputUse_cg16Update p, fun _ => rfl⟩

theorem readsInput_copyInput (p : Params) : Micro.ReadsInput p .copyInput State.emit :=
  ⟨.inr (.inr rfl), inputUse_emit, fun _ => rfl⟩

section
variable {p : Params} {m : Micro} {use : State → Byte → State} {s : State}

/-- Reads of the input take no descriptor and leave what is to do; each takes one byte. -/
theorem Micro.ReadsInput.facts (h : Micro.ReadsInput p m use) :
    m.IsPlain ∧ m.writesOperands = false ∧ m.inputs = 1 := by
  obtain rfl | rfl | rfl := h.reads <;> exact ⟨⟨nofun, nofun⟩, rfl, rfl⟩

/-- The first `n` turns of a read loop over input that is there so far. -/
theorem Micro.ReadsInput.runs (h : Micro.ReadsInput p m use) {n : Nat} (hrp : s.rp = 0)
    (hs : ∀ a, a < n → ∃ b, s.inByte? a = some b) :
    Runs p (List.replicate n m) s ((State.fromInput use)^[n] s) where
  ready := ready_replicate_input h.inputUse (Micro.missingRead_input h.reads) h.perform n s
    fun a _ ha => hs a (by omega)
  plain k hk := List.eq_of_mem_replicate hk ▸ h.facts.1
  effect := by rw [runMicro_replicate, funext h.perform]

/-- A read loop over the whole input. -/
theorem Micro.ReadsInput.runs_overInput (h : Micro.ReadsInput p m use) (hl : s.InputListed)
    (hrp : s.rp = 0) : Runs p (List.replicate s.ilen m) s (s.overInput use) :=
  h.runs hrp fun _ ha => hl.inByte ha

/-- A read loop over input that is not there faults at the first index that is missing, within `ILEN`
turns (R22). -/
theorem Micro.ReadsInput.faults (h : Micro.ReadsInput p m use) (hrp : s.rp = 0) {a : Nat}
    (hmissing : s.missingInput = some a) (rest : List Micro) :
    ReachesWithin p s.ilen (s.setTodo (List.replicate s.ilen m ++ rest)) (.fault (.inputUnlisted a)) := by
  obtain ⟨hlt, hnone⟩ := State.missingInput_eq_some hmissing
  obtain ⟨-, -, hbefore⟩ := List.find?_range_eq_some.1 hmissing
  have hruns := h.runs (n := a) hrp fun k hk => by
    simpa [State.inByte?, Nat.lt_trans hk hlt, Option.isSome_iff_exists] using hbefore k hk
  obtain ⟨-, hoperands, hinputs⟩ := h.facts
  have hin := (hruns.operands fun k hk => List.eq_of_mem_replicate hk ▸ hoperands).inByte?
  have hrp' : ((State.fromInput use)^[a] s).rp = a := by
    rw [hruns.rp, hrp, List.map_replicate, hinputs]
    simp
  have hread : m.missingRead ((State.fromInput use)^[a] s) = some (.inputUnlisted a) := by
    rw [Micro.missingRead_input h.reads, State.missingInputByte_of_none, hrp']
    rw [hin, hrp']
    exact (s.inByte?_eq_none_iff a).2 (.inr hnone)
  have hsplit : List.replicate s.ilen m =
      List.replicate a m ++ m :: List.replicate (s.ilen - a - 1) m := by
    rw [← List.replicate_succ, List.replicate_append_replicate]
    congr 1
    omega
  rw [hsplit, List.append_assoc]
  exact (hruns.reachesWithin (reachesWithin_missing hread _)).mono (by rw [List.length_replicate]; omega)

/-- A loop over bytes of `OUT` that have been appended (R86 form b). -/
theorem runs_overOutput {f : Nat → Micro} (hf : ∀ i, f i = .cg8Output i ∨ f i = .cg16Output i)
    (hu : ∀ s b, (use s b).outByte? = s.outByte?) (hp : ∀ i s, (f i).perform p s = s.fromOutput use i)
    {k : Nat} (hs : s.OutputListed) (hk : k ≤ s.wp) :
    Runs p ((List.range k).map f) s (s.overOutput use k) where
  ready := ready_outputs hu (fun i => Micro.missingRead_output (hf i)) hp (List.range k) s
    fun i hi => hs.outByte (Nat.lt_of_lt_of_le (List.mem_range.1 hi) hk)
  plain m hm := by
    obtain ⟨i, -, rfl⟩ := List.mem_map.1 hm
    obtain h | h := hf i <;> rw [h] <;> exact ⟨nofun, nofun⟩
  effect := by
    rw [runMicro, List.foldl_map, State.overOutput]
    exact congrArg (fun g => List.foldl g s _) (funext fun t => funext fun i => hp i t)

theorem runs_cg8Outputs (p : Params) {k : Nat} (hs : s.OutputListed) (hk : k ≤ s.wp) :
    Runs p ((List.range k).map .cg8Output) s (s.overOutput (State.cg8Update p) k) :=
  runs_overOutput (use := State.cg8Update p) (fun _ => .inl rfl) (fun _ _ => rfl) (fun _ _ => rfl) hs hk

theorem runs_cg16Outputs (p : Params) {k : Nat} (hs : s.OutputListed) (hk : k ≤ s.wp) :
    Runs p ((List.range k).map .cg16Output) s (s.overOutput (State.cg16Update p) k) :=
  runs_overOutput (use := State.cg16Update p) (fun _ => .inr rfl) (fun _ _ => rfl) (fun _ _ => rfl) hs hk

theorem runs_setStep (p : Params) (k : Fin 9) (s : State) : Runs p [.setStep k] s (s.setStep k) :=
  runs_of_reads_nothing rfl rfl

theorem runs_emitBytes (p : Params) (bs : List Byte) (s : State) :
    Runs p (bs.map .emitByte) s (s.emitSeq bs) := by
  refine runs_of_reads_nothing (by simp [Micro.readsNothing]) ?_
  induction bs generalizing s with
  | nil => rfl
  | cons b bs ih => exact ih (s.emit b)

end

/-! ### The checksum programs -/

/-- The program of `CRC8` before its last micro-step, on input that is there (R100). -/
theorem runs_crc8 (p : Params) {s : State} (hl : s.InputListed) (hrp : s.rp = 0) :
    Runs p (Micro.cg8Clear :: List.replicate s.ilen Micro.cg8Input ++ [Micro.emitAcc8]) s
      (s.cg8Clear.overInput (State.cg8Update p)).emitAcc8 := by
  have hclear : Runs p [.cg8Clear] s s.cg8Clear := runs_of_reads_nothing rfl rfl
  have hloop := (readsInput_cg8Input p).runs_overInput (s := s.cg8Clear) hl hrp
  exact (hclear.append hloop).append (runs_of_reads_nothing rfl rfl)

/-- The program of `CRC16` before its last micro-step, on input that is there (R110). -/
theorem runs_crc16 (p : Params) {s : State} (hl : s.InputListed) (hrp : s.rp = 0) :
    Runs p (Micro.cg16Clear :: List.replicate s.ilen Micro.cg16Input
        ++ [Micro.emitAcc16Low, .emitAcc16High]) s
      (s.cg16Clear.overInput (State.cg16Update p)).emitAcc16Low.emitAcc16High := by
  have hclear : Runs p [.cg16Clear] s s.cg16Clear := runs_of_reads_nothing rfl rfl
  have hloop := (readsInput_cg16Input p).runs_overInput (s := s.cg16Clear) hl hrp
  exact (hclear.append hloop).append (runs_of_reads_nothing rfl rfl)

/-! ### The steps of the frame assembler -/

/-- The micro-steps of `faStep1` (R121). -/
def faStep1Micros : List Micro := [.emitByte magicByte, .emitByte versionByte, .setStep 2]

/-- The micro-steps of `faStep2` (R122). -/
def faStep2Micros : List Micro := [.emitLengthLow, .emitLengthHigh, .setStep 3]

/-- The micro-steps of `faStep3` (R123). -/
def faStep3Micros : List Micro :=
  Micro.cg8Clear :: (List.range 4).map Micro.cg8Output ++ [Micro.emitAcc8, .setStep 4]

/-- The micro-steps of `faStep4` (R124). -/
def faStep4Micros : List Micro := midHeader.map Micro.emitByte ++ [Micro.setStep 5]

/-- The micro-steps of `faStep5` (R125). -/
def faStep5Micros : List Micro := [.emitDst, .emitCmdSet, .emitCmdId, .setStep 6]

/-- The micro-steps of `faStep6` on a payload of `n` bytes (R126). -/
def faStep6Micros (n : Nat) : List Micro := List.replicate n Micro.copyInput ++ [Micro.setStep 7]

/-- The micro-steps of `faStep7` at the `WP` it starts at (R127). -/
def faStep7Micros (wp : Nat) : List Micro :=
  Micro.cg16Clear :: (List.range wp).map Micro.cg16Output
    ++ [Micro.emitAcc16Low, .emitAcc16High, .setStep 8]

section
variable (p : Params) {s : State}

theorem runs_faStep1 (s : State) : Runs p faStep1Micros s (faStep1 s) :=
  runs_of_reads_nothing rfl (by rw [faStep1]; rfl)

theorem runs_faStep2 (s : State) : Runs p faStep2Micros s (faStep2 s) :=
  runs_of_reads_nothing rfl (by rw [faStep2]; rfl)

theorem runs_faStep3 (hs : s.OutputListed) (hw : 4 ≤ s.wp) :
    Runs p faStep3Micros s (faStep3 p s) := by
  have hclear : Runs p [.cg8Clear] s s.cg8Clear := runs_of_reads_nothing rfl rfl
  have hcheck := runs_cg8Outputs p (s := s.cg8Clear) hs hw
  rw [faStep3]
  exact (hclear.append hcheck).append (runs_of_reads_nothing rfl rfl)

theorem runs_faStep4 (s : State) : Runs p faStep4Micros s (faStep4 s) := by
  rw [faStep4]
  exact (runs_emitBytes p midHeader s).append (runs_setStep p 5 _)

theorem runs_faStep5 (s : State) : Runs p faStep5Micros s (faStep5 s) :=
  runs_of_reads_nothing rfl (by rw [faStep5]; rfl)

theorem runs_faStep6 (hl : s.InputListed) (hrp : s.rp = 0) :
    Runs p (faStep6Micros s.ilen) s (faStep6 s) := by
  rw [faStep6]
  exact ((readsInput_copyInput p).runs_overInput hl hrp).append (runs_setStep p 7 _)

theorem runs_faStep7 (hs : s.OutputListed) : Runs p (faStep7Micros s.wp) s (faStep7 p s) := by
  have hclear : Runs p [.cg16Clear] s s.cg16Clear := runs_of_reads_nothing rfl rfl
  have hcheck := runs_cg16Outputs p (s := s.cg16Clear) hs (Nat.le_refl s.wp)
  rw [faStep7]
  exact (hclear.append hcheck).append (runs_of_reads_nothing rfl rfl)

end

/-! ### The frame's program -/

/-- The micro-steps before the payload: steps 1 to 5, and the change from the length check to them. -/
def frameHeadMicros : List Micro :=
  [Micro.setStep 1] ++ faStep1Micros ++ faStep2Micros ++ faStep3Micros ++ faStep4Micros ++ faStep5Micros

theorem frameProgram_eq (n : Nat) :
    frameProgram n =
      frameHeadMicros ++ faStep6Micros n ++ faStep7Micros (headerLen + n) ++ [Micro.finish] := by
  simp [frameProgram, frameHeadMicros, faStep1Micros, faStep2Micros, faStep3Micros, faStep4Micros,
    faStep5Micros, faStep6Micros, faStep7Micros, List.range_succ]

/-- Steps 1 to 5 of `assemble`, from the length check on. -/
def assembleHead (p : Params) (s : State) : State :=
  faStep5 (faStep4 (faStep3 p (faStep2 (faStep1 (s.setStep 1)))))

section
variable (p : Params) {s : State}

theorem runs_frameHead (hw : s.wp = 0) : Runs p frameHeadMicros s (assembleHead p s) := by
  have hs : s.OutputListed := fun a ha => absurd ha (by omega)
  have h3 := ((runs_setStep p 1 s).append (runs_faStep1 p _)).append (runs_faStep2 p _)
  have hw4 : (faStep2 (faStep1 (s.setStep 1))).wp = 4 := by rw [h3.wp, hw]; rfl
  have h4 := h3.append (runs_faStep3 p (h3.outputListed hs) (Nat.le_of_eq hw4.symm))
  exact (h4.append (runs_faStep4 p _)).append (runs_faStep5 p _)

/-- What steps 1 to 5 leave: the operands, `RP`, and a header appended to `OUT`. -/
theorem assembleHead_facts (hw : s.wp = 0) :
    s.SameOperands (assembleHead p s) ∧ (assembleHead p s).rp = s.rp ∧
      (assembleHead p s).wp = headerLen ∧ (assembleHead p s).OutputListed := by
  have h := runs_frameHead p hw
  refine ⟨h.operands (by decide), ?_, ?_, h.outputListed fun a ha => absurd ha (by omega)⟩
  · rw [h.rp]; rfl
  · rw [h.wp, hw]; rfl

/-- A frame's program before its last micro-step, on a payload that is there (R120). -/
theorem runs_frameProgram (hl : s.InputListed) (hw : s.wp = 0) (hrp : s.rp = 0) :
    Runs p (frameHeadMicros ++ faStep6Micros s.ilen ++ faStep7Micros (headerLen + s.ilen)) s
      (faStep7 p (assembleBody p (s.setStep 1))) := by
  obtain ⟨hoperands, hrp', hw', hout⟩ := assembleHead_facts p hw
  have hilen : (assembleHead p s).ilen = s.ilen := hoperands.2.1
  have hpayload := runs_faStep6 p (hoperands.inputListed hl) (hrp'.trans hrp)
  have hw6 : (faStep6 (assembleHead p s)).wp = headerLen + s.ilen := by
    rw [hpayload.wp, hw', hilen]
    simp [appendCount, faStep6Micros, Micro.appends]
  have hcheck := runs_faStep7 p (hpayload.outputListed hout)
  rw [hilen] at hpayload
  rw [hw6] at hcheck
  rw [assembleBody]
  exact ((runs_frameHead p hw).append hpayload).append hcheck

theorem reachesWithin_frameProgram (hl : s.InputListed) (hw : s.wp = 0) (hrp : s.rp = 0) :
    ReachesWithin p (49 + 2 * s.ilen) (s.setTodo (frameProgram s.ilen))
      (.next (assemble p (s.setStep 1))) := by
  rw [frameProgram_eq, assemble_eq_assembleBody]
  refine (runs_frameProgram p hl hw hrp).finishes.mono (Nat.le_of_eq ?_)
  have hhead : frameHeadMicros.length = 27 := rfl
  simp only [List.length_append, hhead, faStep6Micros, faStep7Micros, List.length_replicate,
    List.length_cons, List.length_nil, List.length_map, List.length_range, headerLen]
  omega

/-- A frame's program on a payload that is not there stops in step 6, at the first missing byte (R22). -/
theorem reachesWithin_frameProgram_missing (hw : s.wp = 0) (hrp : s.rp = 0) {a : Nat}
    (hmissing : s.missingInput = some a) :
    ReachesWithin p (27 + s.ilen) (s.setTodo (frameProgram s.ilen)) (.fault (.inputUnlisted a)) := by
  obtain ⟨hoperands, hrp', -, -⟩ := assembleHead_facts p hw
  have hfault := (readsInput_copyInput p).faults (hrp'.trans hrp) (hoperands.missingInput.trans hmissing)
  rw [hoperands.2.1] at hfault
  rw [frameProgram_eq, faStep6Micros]
  simp only [List.append_assoc]
  exact (runs_frameHead p hw).reachesWithin (hfault _)

end

end Sys2Proof.Machine
end

section
/-! SUPPORT. The two levels agree: each operation's micro-steps reach the end of its call or its fault, and
the machine's own steps are these micro-steps (decision D1). -/

namespace Sys2Proof.Machine

/-! ### The length check -/

section
variable {p : Params} {s t : State} {o : Host.Outcome State Fault Refusal} {k : Nat}

theorem reachesWithin_of_checkLength
    (h : ReachesWithin p k (Micro.checkLength.perform p (s.setTodo [])) o) :
    ReachesWithin p (1 + k) (s.setTodo [.checkLength]) o :=
  h.after (microRun_one (microStep_ready p rfl []))

theorem perform_checkLength_of_gt (h : 65535 < s.ilen) :
    Micro.checkLength.perform p (s.setTodo []) = s.raisePayloadTooLarge s.ilen := if_pos h

theorem perform_checkLength_of_le (h : ¬65535 < s.ilen) :
    Micro.checkLength.perform p (s.setTodo []) = s.setTodo (frameProgram s.ilen) := by
  rw [← List.append_nil (frameProgram s.ilen)]
  exact if_neg h

/-- From the length check on, an issued frame reaches its end: the error, or the frame (R129). -/
theorem reachesWithin_frameEnded (p : Params) (hi : s.Issued) (h : s.InputListed ∨ 65535 < s.ilen) :
    ReachesWithin p (50 + 2 * s.ilen) (s.setTodo [.checkLength]) (.next (s.frameEnded p)) := by
  by_cases hgt : 65535 < s.ilen
  · refine ReachesWithin.mono (reachesWithin_of_checkLength (k := 0) ?_) (by omega)
    rw [perform_checkLength_of_gt hgt, State.frameEnded_of_gt p hgt]
    exact ReachesWithin.refl p _
  · refine ReachesWithin.mono (reachesWithin_of_checkLength (k := 49 + 2 * s.ilen) ?_) (by omega)
    rw [perform_checkLength_of_le hgt, ← frameSteps_eq_frameEnded p hi h, frameSteps,
      if_neg (show ¬maxPayload < s.ilen from hgt)]
    exact reachesWithin_frameProgram p (h.resolve_right hgt) hi.wp hi.rp

end

/-! ### The catalog front end -/

/-- The program of a catalog operation: up to two micro-steps write the predicate and the descriptor, then
the length check follows (R139). -/
theorem runs_frontEnd {p : Params} {i : Instr} {s : State} {d : Descriptor}
    (hd : catalogDescriptor p i s = some d) :
    ∃ l, microProgram p i s = l ++ [.checkLength] ∧ l.length ≤ 2 ∧
      Runs p l s.issue (s.catalogReady i d) := by
  cases i with
  | crc8 | crc16 | buildFrame | isDeltaModel => cases hd
  | acSwitch => cases hd; exact ⟨[_], rfl, by simp, runs_of_reads_nothing rfl rfl⟩
  | getPd => cases hd; exact ⟨[_], rfl, by simp, runs_of_reads_nothing rfl rfl⟩
  | getDcInType => cases hd; exact ⟨[_, _], rfl, by simp, runs_of_reads_nothing rfl rfl⟩
  | getDcInCurrent => cases hd; exact ⟨[_, _], rfl, by simp, runs_of_reads_nothing rfl rfl⟩

/-! ### Every operation -/

/-- An operation that ends, issued without waiting, reaches its end. -/
theorem Ends.reachesWithin {i : Instr} {s t : State} (h : Ends i s t) :
    ReachesWithin Config.params (52 + 2 * t.ilen) (s.start Config.params i) (.next t) := by
  cases h with
  | crc8 hl =>
    have hend := (runs_crc8 Config.params (s := s.issue) hl rfl).finishes
    rw [← crc8Steps, crc8Steps_issue _ hl, List.append_assoc] at hend
    refine hend.mono ?_
    simp only [List.length_append, List.length_cons, List.length_replicate, List.length_nil,
      State.issue_ilen, State.crc8Ended]
    omega
  | crc16 hl =>
    have hend := (runs_crc16 Config.params (s := s.issue) hl rfl).finishes
    rw [← crc16Steps, crc16Steps_issue _ hl, List.append_assoc] at hend
    refine hend.mono ?_
    simp only [List.length_append, List.length_cons, List.length_replicate, List.length_nil,
      State.issue_ilen, State.crc16Ended]
    omega
  | buildFrame hl =>
    refine (reachesWithin_frameEnded Config.params s.issued_issue hl).mono ?_
    rw [State.frameEnded_ilen]
    omega
  | isDeltaModel =>
    have hruns : Runs Config.params [.predicate] s.issue s.issue.evalPredicate :=
      runs_of_reads_nothing rfl rfl
    exact hruns.finishes.mono (Nat.le_add_right_of_le (by decide))
  | @catalog _ _ d hd =>
    obtain ⟨l, hprogram, hlength, hruns⟩ := runs_frontEnd hd
    have hframe := reachesWithin_frameEnded Config.params (s.issued_catalogReady i d)
      (.inl (s.inputListed_catalogReady i d))
    rw [State.start, hprogram, State.frameEnded_ilen]
    exact (hruns.reachesWithin hframe).mono (by omega)

theorem whenReadable_eq_fault {missing : Option Nat} {t : State} {f : Fault}
    (h : whenReadable missing t = .fault f) : ∃ a, missing = some a ∧ f = .inputUnlisted a := by
  cases missing with
  | none => cases h
  | some a => cases h; exact ⟨a, rfl, rfl⟩

/-- An input that `BUILD_FRAME` misses is one within the bound that is not all there (R163). -/
theorem State.missingInput_of_missingPayload {s : State} {a : Nat} (h : s.missingPayload = some a) :
    ¬65535 < s.ilen ∧ s.missingInput = some a := by
  unfold State.missingPayload at h
  split at h
  · cases h
  · exact ⟨‹_›, h⟩

/-- A checksum program on input that is not there: one micro-step, then the read loop, which stops. -/
theorem reachesWithin_checksum_missing {p : Params} {i : Instr} {clear m : Micro}
    {use : State → Byte → State} {s u : State} {rest : List Micro} (hm : Micro.ReadsInput p m use)
    (hprogram : microProgram p i s = [clear] ++ (List.replicate u.ilen m ++ rest))
    (hclear : Runs p [clear] s.issue u) (hrp : u.rp = 0) {a : Nat} (hmissing : u.missingInput = some a) :
    ReachesWithin p (1 + u.ilen) (s.start p i) (.fault (.inputUnlisted a)) := by
  rw [State.start, hprogram]
  exact hclear.reachesWithin (hm.faults hrp hmissing rest)

/-- An operation that faults, issued without waiting, reaches the same fault. -/
theorem reachesWithin_of_exec_fault {i : Instr} {s : State} {f : Fault} (h : exec i s = .fault f) :
    ReachesWithin Config.params (52 + 2 * s.ilen) (s.start Config.params i) (.fault f) := by
  cases i with
  | isDeltaModel | acSwitch | getPd | getDcInType | getDcInCurrent => cases h
  | crc8 =>
    obtain ⟨a, hmissing, rfl⟩ := whenReadable_eq_fault h
    have hclear : Runs Config.params [.cg8Clear] s.issue s.issue.cg8Clear := runs_of_reads_nothing rfl rfl
    refine ReachesWithin.mono
      (reachesWithin_checksum_missing (readsInput_cg8Input _) rfl hclear rfl hmissing) ?_
    show 1 + s.ilen ≤ 52 + 2 * s.ilen
    omega
  | crc16 =>
    obtain ⟨a, hmissing, rfl⟩ := whenReadable_eq_fault h
    have hclear : Runs Config.params [.cg16Clear] s.issue s.issue.cg16Clear := runs_of_reads_nothing rfl rfl
    refine ReachesWithin.mono
      (reachesWithin_checksum_missing (readsInput_cg16Input _) rfl hclear rfl hmissing) ?_
    show 1 + s.ilen ≤ 52 + 2 * s.ilen
    omega
  | buildFrame =>
    obtain ⟨a, hpayload, rfl⟩ := whenReadable_eq_fault h
    obtain ⟨hle, hmissing⟩ := State.missingInput_of_missingPayload hpayload
    have hfault := reachesWithin_frameProgram_missing Config.params s.issue_wp s.issue_rp hmissing
    have hle' : ¬65535 < s.issue.ilen := hle
    rw [← perform_checkLength_of_le (p := Config.params) hle'] at hfault
    refine (reachesWithin_of_checkLength hfault).mono ?_
    show 1 + (27 + s.ilen) ≤ 52 + 2 * s.ilen
    omega

/-- Settles O54: by the end state of the call, or by the index its fault names. -/
theorem smallStepsReachTheEnd : Obligations.SmallStepsReachTheEnd :=
  ⟨fun _ _ _ h => (ends_of_exec h).reachesWithin, fun _ _ _ h => reachesWithin_of_exec_fault h⟩

/-! ### The machine's own steps -/

/-- No micro-step touches the caller's moves. -/
theorem Micro.perform_script (p : Params) (m : Micro) (s : State) : (m.perform p s).script = s.script := by
  cases m with
  | cg8Input | cg16Input | copyInput => rw [Micro.perform, State.fromInput]; split <;> rfl
  | cg8Output i | cg16Output i => rw [Micro.perform, State.fromOutput]; split <;> rfl
  | checkLength => rw [Micro.perform]; split <;> rfl
  | _ => rfl

theorem microStep_script {p : Params} {s t : State} (h : microStep p s = .next t) :
    t.script = s.script := by
  obtain ⟨-, rfl⟩ | ⟨m, rest, -, -, rfl⟩ := microStep_cases h
  · rfl
  · exact m.perform_script p (s.setTodo rest)

theorem run_succ {s t : State} (n : Nat) (h : step s = .next t) :
    Sys2Proof.core.run (n + 1) s = Sys2Proof.core.run n t := by
  have h' : Sys2Proof.core.step s = .next t := h
  simp only [Host.Core.run, h']

/-- With no move to come the machine does one micro-step after another. -/
theorem run_of_microRun {n : Nat} {s t : State} (hs : s.script = [])
    (h : microRun Config.params n s = .next t) : Sys2Proof.core.run n s = .next t := by
  induction n generalizing s with
  | zero => exact h
  | succ n ih =>
    cases hm : microStep Config.params s with
    | next u =>
      rw [microRun_succ n hm] at h
      rw [run_succ n ((step_of_no_move hs).trans hm)]
      exact ih ((microStep_script hm).trans hs) h
    | fault f => rw [microRun_succ_fault n hm] at h; cases h
    | refused r => rw [microRun, hm] at h; cases h

/-- Settles O55: the issue is one step, and the micro-steps that follow reach the end of the call. -/
theorem issuedOperationReachesTheEndOfItsCall : Obligations.IssuedOperationReachesTheEndOfItsCall := by
  intro s t op i hidle hs hop h
  obtain ⟨n, hn, hrun⟩ := (ends_of_exec h).reachesWithin
  refine ⟨n + 1, by omega, ?_⟩
  rw [run_succ n (step_issue_named hidle hs hop)]
  exact run_of_microRun rfl hrun

end Sys2Proof.Machine
end

section
/-! SUPPORT. The checksums as functions of a byte sequence: the empty one, one byte, a concatenation; and CG8
and `CRC8`, which compute the CRC-8 in the machine (spec/41_crc8.md). -/

namespace Sys2Proof.Machine

/-- Settles O20: the write of `ACC8` is the one write of each. -/
theorem cg8InitialisesAndUpdates : Obligations.Cg8InitialisesAndUpdates :=
  fun _ _ _ => ⟨rfl, rfl⟩

/-! ### The empty sequence -/

@[simp] theorem crc8_nil (t : Byte → Byte) : crc8 t [] = 0x00#8 := rfl

@[simp] theorem crc16_nil (t : Byte → Word16) : crc16 t [] = 0x0000#16 := rfl

/-- Settles O26: no byte changes the initial accumulator. -/
theorem emptyInputGivesZero : Obligations.EmptyInputGivesZero :=
  ⟨crc8_nil, fun t => ⟨crc16_nil t, by rw [crc16_nil]; rfl⟩⟩

/-! ### A concatenation -/

theorem crc8Acc_append (t : Byte → Byte) (acc : Byte) (u v : List Byte) :
    crc8Acc t acc (u ++ v) = crc8Acc t (crc8Acc t acc u) v := by
  simp only [crc8Acc_eq_foldl, List.foldl_append]

theorem crc16Acc_append (t : Byte → Word16) (acc : Word16) (u v : List Byte) :
    crc16Acc t acc (u ++ v) = crc16Acc t (crc16Acc t acc u) v := by
  simp only [crc16Acc_eq_foldl, List.foldl_append]

/-- Settles O27: each recursion is a left fold over the bytes, whatever accumulator it starts from. -/
theorem checksumsCompose : Obligations.ChecksumsCompose :=
  ⟨fun t => crc8Acc_append t 0x00#8, fun t => crc16Acc_append t 0x0000#16⟩

/-! ### CRC8 -/

/-- The first byte meets a zero accumulator, so its table index is the byte itself. -/
theorem crc8_cons (t : Byte → Byte) (b : Byte) (bs : List Byte) :
    crc8 t (b :: bs) = crc8Acc t (t b) bs := by
  rw [crc8, crc8Acc_cons, cg8Next_eq, BitVec.zero_xor]

theorem crc8_singleton (t : Byte → Byte) (b : Byte) : crc8 t [b] = t b := crc8_cons t b []

/-- The worked example of R100, for any four bytes. -/
theorem crc8_four (t : Byte → Byte) (a b c d : Byte) :
    crc8 t [a, b, c, d] = t (t (t (t a ^^^ b) ^^^ c) ^^^ d) := by
  simp only [crc8_cons, crc8Acc_cons, cg8Next_eq]
  rfl

theorem exec_crc8 {s : State} (h : s.InputListed) :
    exec .crc8 s = .next (s.crc8Ended Config.params) := by
  rw [exec, execCrc8, whenReadable_missingInput h, crc8Steps_issue _ h]

theorem State.crc8Ended_outBytes (p : Params) (s : State) :
    (s.crc8Ended p).outBytes = [crc8 p.table8 s.inBytes] :=
  State.outBytes_of_writeAll _ s.outBuf _ rfl rfl

/-- Settles O23: the end state is `State.crc8Ended`; its result, `WP` and `STATUS` are those every operation
delivers, and its one byte is the CRC-8 of the input. -/
theorem crc8GivesTheChecksum : Obligations.Crc8GivesTheChecksum := by
  refine ⟨decodeOp_encodeOp .crc8, fun t a b l => ⟨rfl, rfl, rfl, crc8_four t _ _ _ _⟩, fun s hl => ?_⟩
  have hexec := exec_crc8 hl
  have hout := s.crc8Ended_outBytes Config.params
  obtain ⟨hresult, hwp, hstatus⟩ := exec_delivers hexec
  refine ⟨_, hexec, hout, hwp, hstatus, hresult, fun hnil => ?_, fun b hone => ?_⟩
  · rw [hout, hnil, crc8_nil]
  · rw [hout, hone, crc8_singleton]
    rfl

end Sys2Proof.Machine
end

section
/-! SUPPORT. CG16 and `CRC16`, which compute the CRC-16 in the machine (spec/42_crc16.md), and what holds of
the CRC-16 with the listed table `T16_ARC` only: it is linear over xor, and a sequence followed by its own
CRC-16 has CRC-16 zero (R114, R117). -/

namespace Sys2Proof.Machine

/-- Settles O21: the write of `ACC16` is the one write of each. -/
theorem cg16InitialisesAndUpdates : Obligations.Cg16InitialisesAndUpdates :=
  fun _ _ _ => ⟨rfl, rfl⟩

/-! ### CRC16 -/

/-- The first byte meets a zero accumulator: its table index is the byte itself, and nothing is shifted
in. -/
theorem crc16_cons (t : Byte → Word16) (b : Byte) (bs : List Byte) :
    crc16 t (b :: bs) = crc16Acc t (t b) bs := by
  have hlow : lowByte 0x0000#16 = 0x00#8 := rfl
  rw [crc16, crc16Acc_cons, cg16Next, cg16Index_eq, hlow, BitVec.zero_xor, BitVec.zero_ushiftRight,
    BitVec.xor_zero]

theorem crc16_singleton (t : Byte → Word16) (b : Byte) : crc16 t [b] = t b := crc16_cons t b []

/-- The worked example of R110. -/
theorem crc16_t16Arc_example : crc16 t16Arc [0x01#8, 0x02#8] = 0x5180#16 := by decide

theorem exec_crc16 {s : State} (h : s.InputListed) :
    exec .crc16 s = .next (s.crc16Ended Config.params) := by
  rw [exec, execCrc16, whenReadable_missingInput h, crc16Steps_issue _ h]

theorem State.crc16Ended_outBytes (p : Params) (s : State) :
    (s.crc16Ended p).outBytes = le16 (crc16 p.table16 s.inBytes) :=
  State.outBytes_of_writeAll _ s.outBuf _ rfl rfl

/-- Settles O24: the end state is `State.crc16Ended`; its result, `WP` and `STATUS` are those every operation
delivers, and its two bytes are `le16` of the CRC-16 of the input. -/
theorem crc16GivesTheChecksum : Obligations.Crc16GivesTheChecksum := by
  refine ⟨decodeOp_encodeOp .crc16, fun t a b l => ⟨rfl, rfl, rfl⟩, crc16_t16Arc_example, fun s hl => ?_⟩
  have hexec := exec_crc16 hl
  have hout := s.crc16Ended_outBytes Config.params
  obtain ⟨hresult, hwp, hstatus⟩ := exec_delivers hexec
  refine ⟨_, hexec, hout, hwp, hstatus, hout ▸ hresult, fun hnil => ?_, fun b hone => ?_⟩
  · rw [hout, hnil, crc16_nil]
    rfl
  · rw [hout, hone, crc16_singleton]
    rfl

/-! ### The table `T16_ARC` -/

/-- Settles O28, entry by entry: the listed values are data, which only reading all 256 of them compares. -/
theorem arcTableIsTheFormula : Obligations.ArcTableIsTheFormula := by
  unfold Obligations.ArcTableIsTheFormula
  decide

theorem t16Arc_zero : t16Arc 0x00#8 = 0x0000#16 := rfl

/-- The constant comes in by xor, at bit 0 set. -/
theorem arcShift_eq (c : Word16) :
    arcShift c = (c >>> 1) ^^^ bif c.getLsbD 0 then 0xA001#16 else 0x0000#16 := by
  rw [arcShift]
  cases c.getLsbD 0 with
  | false => exact BitVec.xor_zero.symm
  | true => rfl

/-- One step is linear over xor: so are the shift and the choice of the constant. -/
theorem arcShift_semiconj : Function.Semiconj₂ arcShift (· ^^^ ·) (· ^^^ ·) := by
  intro a b
  have hconst : ∀ x y : Bool, (bif x ^^ y then 0xA001#16 else 0x0000#16) =
      (bif x then 0xA001#16 else 0x0000#16) ^^^ (bif y then 0xA001#16 else 0x0000#16) := by decide
  simp only [arcShift_eq, BitVec.getLsbD_xor, BitVec.ushiftRight_xor_distrib, hconst]
  ac_rfl

/-- The table is linear over xor, as the eight steps of its formula are. -/
theorem t16Arc_xor (a b : Byte) : t16Arc (a ^^^ b) = t16Arc a ^^^ t16Arc b := by
  simp only [arcTableIsTheFormula _, arcFormula, BitVec.setWidth_xor]
  exact arcShift_semiconj.iterate 8 _ _

/-! ### Linearity -/

theorem lowByte_xor (v w : Word16) : lowByte (v ^^^ w) = lowByte v ^^^ lowByte w :=
  BitVec.extractLsb'_xor

theorem cg16Next_t16Arc_xor (acc acc' : Word16) (b b' : Byte) :
    cg16Next t16Arc (acc ^^^ acc') (b ^^^ b') = cg16Next t16Arc acc b ^^^ cg16Next t16Arc acc' b' := by
  simp only [cg16Next, cg16Index_eq, lowByte_xor, t16Arc_xor, BitVec.ushiftRight_xor_distrib]
  ac_rfl

theorem crc16Acc_t16Arc_xor (acc acc' : Word16) {u v : List Byte} (h : u.length = v.length) :
    crc16Acc t16Arc (acc ^^^ acc') (List.zipWith (· ^^^ ·) u v) =
      crc16Acc t16Arc acc u ^^^ crc16Acc t16Arc acc' v := by
  induction u generalizing v acc acc' with
  | nil =>
    cases v with
    | nil => rfl
    | cons => cases h
  | cons b u ih =>
    cases v with
    | nil => cases h
    | cons b' v =>
      rw [List.zipWith_cons_cons, crc16Acc_cons, crc16Acc_cons, crc16Acc_cons, cg16Next_t16Arc_xor]
      exact ih _ _ (Nat.succ.inj h)

/-- Settles O29: linearity goes through the recursion from the table, and a zero byte meets the entry 0. For
the table with every entry 1, one zero byte refutes both properties. -/
theorem arcChecksumIsLinear : Obligations.ArcChecksumIsLinear := by
  refine ⟨t16Arc_zero, fun h => ?_, fun h => ?_, fun p d => frame_getElem?_header p d (by decide),
    fun u => ?_, fun u v huv => crc16Acc_t16Arc_xor 0x0000#16 0x0000#16 huv⟩
  · exact absurd (h (fun _ => 0x0001#16) []) (by decide)
  · exact absurd (h (fun _ => 0x0001#16) [0x00#8] [0x00#8] rfl) (by decide)
  · rw [crc16_cons, t16Arc_zero, crc16]

/-! ### A sequence and its own CRC-16 -/

/-- A byte equal to the low byte of the accumulator has table index 0. -/
theorem cg16Next_lowByte {t : Byte → Word16} (ht : t 0x00#8 = 0x0000#16) (acc : Word16) :
    cg16Next t acc (lowByte acc) = acc >>> 8 := by
  rw [cg16Next, cg16Index_eq, BitVec.xor_self, ht, BitVec.zero_xor]

theorem lowByte_ushiftRight (acc : Word16) : lowByte (acc >>> 8) = highByte acc := by
  rw [lowByte, highByte]
  ext i hi
  simp

/-- The two bytes of the accumulator shift it out, low byte first. -/
theorem crc16Acc_le16_self {t : Byte → Word16} (ht : t 0x00#8 = 0x0000#16) (acc : Word16) :
    crc16Acc t acc (le16 acc) = 0x0000#16 := by
  have hout : (acc >>> 8) >>> 8 = 0x0000#16 := by
    rw [← BitVec.shiftRight_add]
    exact BitVec.ushiftRight_eq_zero le_rfl
  rw [le16, crc16Acc_cons, cg16Next_lowByte ht, ← lowByte_ushiftRight, crc16Acc_cons,
    cg16Next_lowByte ht, hout, crc16Acc]

/-- Settles O30: the trailer of a frame is `le16` of the accumulator it meets. -/
theorem arcFrameChecksToZero : Obligations.ArcFrameChecksToZero := by
  intro p d harc
  rw [frame, harc, crc16, crc16Acc_append]
  exact crc16Acc_le16_self t16Arc_zero _

end Sys2Proof.Machine
end

section
/-! SUPPORT. The frame assembler and `BUILD_FRAME` (spec/43_frame_assembler.md): what each step appends,
the whole operation, and the round trips of a frame (R120 to R131). -/

namespace Sys2Proof.Machine

/-! ### The round trips of a frame -/

theorem drop_frame_body (p : Params) (d : Descriptor) :
    (frame p d).drop (16 + d.payload.length) = le16 (crc16 p.table16 (frameBody p.table8 d)) :=
  List.drop_left' (length_frameBody p.table8 d)

theorem toNat_lengthBytes {n : Nat} (hn : n ≤ 65535) :
    (BitVec.ofNat 8 (n % 256)).toNat + 256 * (BitVec.ofNat 8 (n / 256)).toNat = n := by
  rw [BitVec.toNat_ofNat, BitVec.toNat_ofNat]
  omega

/-- Settles O33: the length and the header check stand at their offsets of R50, and a frame without its
last two bytes is `g` of R120, whose CRC-16 those two are. -/
theorem frameRoundTrips : Obligations.FrameRoundTrips := by
  intro p d hn
  obtain ⟨hlen, -, -, hlow, hhigh, hcheck, -⟩ := frameBytesAreLaidOut p d _ rfl hn
  have hbody : (frame p d).length - 2 = 16 + d.payload.length := by omega
  refine ⟨by omega, ⟨_, _, hlow, hhigh, toNat_lengthBytes hn⟩, hcheck, ?_⟩
  rw [hbody, take_frame_body, drop_frame_body]

/-! ### What an append leaves in `OUT` -/

section
variable {s t : State} {bs : List Byte}

/-- The bytes below the old `WP` are kept. -/
theorem State.Appends.outByte?_below (h : s.Appends t bs) {a : Nat} (ha : a < s.wp) :
    t.outByte? a = s.outByte? a := by
  rw [h.outByte?, if_pos ha]

/-- The appended bytes stand from the old `WP` upwards. -/
theorem State.Appends.outByte?_at (h : s.Appends t bs) {w : Nat} (hw : s.wp = w) (k : Nat) :
    t.outByte? (w + k) = bs[k]? := by
  rw [h.outByte?, hw, if_neg (by omega), Nat.add_sub_cancel_left]

end

/-- Settles O35: each step appends its bytes, and stands at the `WP` its first byte belongs to. -/
theorem appendStepsWriteTheirBytes : Obligations.AppendStepsWriteTheirBytes := by
  refine ⟨fun s hw => ?_, fun s hw hn => ?_, fun s hw => ?_, fun s hw => ?_⟩
  · have h := faStep1_appends s
    exact ⟨h.outByte?_at hw 0, h.outByte?_at hw 1, by rw [h.wp, hw]; rfl⟩
  · have h := faStep2_appends s hn
    rw [← lengthBytes_eq hn] at h
    exact ⟨h.outByte?_at hw 0, h.outByte?_at hw 1, by rw [h.wp, hw]; rfl⟩
  · have h := faStep4_appends s
    refine ⟨h.outByte?_at hw 0, fun a hlo hhi => ?_, h.outByte?_at hw 7, by rw [h.wp, hw]; rfl⟩
    obtain ⟨k, rfl⟩ := Nat.exists_eq_add_of_le (Nat.le_of_succ_le hlo)
    rw [h.outByte?_at hw]
    have hk1 : 1 ≤ k := by omega
    have hk6 : k ≤ 6 := by omega
    interval_cases k <;> rfl
  · have h := faStep5_appends s
    exact ⟨h.outByte?_at hw 0, h.outByte?_at hw 1, h.outByte?_at hw 2, by rw [h.wp, hw]; rfl⟩

/-- With the input there, byte `i` of `IN[0:ILEN]` is `IN[i]`. -/
theorem State.InputListed.getElem?_inBytes {s : State} (h : s.InputListed) {i : Nat} (hi : i < s.ilen) :
    s.inBytes[i]? = s.inByte? i := by
  have hmap : s.inBytes = (List.range s.ilen).map fun a => (s.inByte? a).getD 0x00#8 := by
    rw [State.inBytes, ← List.filterMap_eq_map]
    refine List.filterMap_congr fun a ha => ?_
    obtain ⟨b, hb⟩ := h.inByte (List.mem_range.1 ha)
    simp [hb]
  obtain ⟨b, hb⟩ := h.inByte hi
  rw [hmap, List.getElem?_map, List.getElem?_range hi, Option.map_some, hb, Option.getD_some]

/-- Settles O36: each step appends what it computes from the bytes it reads, so it keeps the earlier ones. -/
theorem readingStepsWriteTheirBytes : Obligations.ReadingStepsWriteTheirBytes := by
  refine ⟨fun p s hw => ?_, fun s hw hrp hl => ?_, fun p s hw => ?_⟩
  · have h := faStep3_appends p s hw
    exact ⟨h.outByte?_at hw 0, by rw [h.wp, hw]; rfl, fun a ha => h.outByte?_below (by omega)⟩
  · have h := faStep6_appends s hl hrp
    refine ⟨fun i hi => ?_, ?_, fun a ha => h.outByte?_below (by omega)⟩
    · rw [h.outByte?_at hw, hl.getElem?_inBytes hi]
    · rw [h.wp, hw, hl.length_inBytes]
  · have h := faStep7_appends p s
    have hwp : (faStep7 p s).wp = s.wp + 2 := h.wp
    have hhigh := h.outByte?_at hw 1
    rw [show 16 + s.ilen + 1 = 17 + s.ilen by omega] at hhigh
    exact ⟨h.outByte?_at hw 0, hhigh, by omega, fun a ha => h.outByte?_below (by omega)⟩

/-! ### `BUILD_FRAME` -/

theorem exec_buildFrame_of_le {s : State} (hl : s.InputListed) (hn : s.ilen ≤ 65535) :
    exec .buildFrame s = .next (s.issue.framed Config.params) := by
  have hissue : s.issue.InputListed := hl
  rw [exec, execBuildFrame, State.missingPayload_eq_none (.inl hl), whenReadable_none,
    frameSteps_of_le _ hissue hn rfl rfl]

/-- `g` of R120, with its header and mid-header written out. -/
theorem frameBody_eq (t : Byte → Byte) {d : Descriptor} {n : Nat} (hd : d.payload.length = n)
    (hn : n ≤ 65535) :
    let h := [0xAA#8, 0x02#8, BitVec.ofNat 8 (n % 256), BitVec.ofNat 8 (n / 256)]
    frameBody t d = h ++ [crc8 t h]
      ++ [0x0D#8, 0x00#8, 0x00#8, 0x00#8, 0x00#8, 0x00#8, 0x00#8, 0x20#8]
      ++ [d.dst, d.cmdSet, d.cmdId] ++ d.payload := by
  rw [frameBody, hd, frameHead_eq hn]
  rfl

/-- Settles O37: a payload that fits and is there ends in `State.framed`, whose `OUT[0:WP]` is the frame; an
over-long one in the error. The result and `STATUS` are those every operation delivers. -/
theorem buildFrameGivesTheFrame : Obligations.BuildFrameGivesTheFrame := by
  refine ⟨decodeOp_encodeOp .buildFrame, fun s hl hn => ?_, fun s hgt => ?_, fun s d c k => ?_⟩
  · have hN : s.inBytes.length = s.ilen := hl.length_inBytes
    have hexec := exec_buildFrame_of_le hl hn
    have hissue : s.issue.InputListed := hl
    have hout : (s.issue.framed Config.params).outBytes = frame Config.params s.descriptor :=
      s.issue.framed_outBytes Config.params hissue
    have hdel := exec_delivers hexec
    have hres : s.delivered .buildFrame = .bytes (frame Config.params s.descriptor) :=
      if_neg (Nat.not_lt.2 hn)
    rw [hres, ← hout] at hdel
    exact ⟨_, _, frameBody Config.table8 s.descriptor, hexec, rfl, frameBody_eq _ hN hn, hout, hout, hN,
      rfl, hdel.status, hdel.result⟩
  · exact ⟨_, exec_buildFrame_of_gt hgt, rfl, rfl⟩
  · exact s.descriptor_writeDescriptor ⟨d, c, k, []⟩

end Sys2Proof.Machine
end

section
/-! SUPPORT. The command catalog (spec/44_command_catalog.md): an operation that builds a frame is
`BUILD_FRAME` on its own descriptor, and leaves that descriptor's frame (R139 to R144). -/

namespace Sys2Proof.Machine

/-! ### The predicate -/

/-- Both bounds of the Delta predicate are exclusive (R140). -/
theorem isDelta_iff (code : Int) : isDelta code = true ↔ code = 13 ∨ code = 14 ∨ code = 15 := by
  rw [isDelta, decide_eq_true_iff]
  omega

/-- Settles O40: `PRED` at the end is the predicate; the result and the record update are read off the end
state. -/
theorem isDeltaModelDecides : Obligations.IsDeltaModelDecides :=
  ⟨decodeOp_encodeOp .isDeltaModel, fun s =>
    ⟨s.issue.evalPredicate.finish, rfl, isDelta_iff s.argPcode, rfl, rfl⟩⟩

/-! ### A catalog operation as `BUILD_FRAME` -/

theorem exec_buildFrame_of_inputListed {s : State} (h : s.InputListed) :
    exec .buildFrame s = .next (s.issue.frameEnded Config.params) := by
  have hissue : s.issue.InputListed := h
  rw [exec, execBuildFrame, State.missingPayload_eq_none (.inl h), whenReadable_none,
    frameSteps_eq_frameEnded _ s.issued_issue (.inl hissue)]

/-- The issue clears no register that the front end writes, so it can come before or after it (R64, R91). -/
theorem State.catalogReady_eq_issue (i : Instr) (s : State) (d : Descriptor) :
    s.catalogReady i d = ((s.setPred (s.predAfter i)).writeDescriptor d).issue := rfl

theorem exec_eq_buildFrame_of_catalogDescriptor {i : Instr} {s : State} {d : Descriptor}
    (hd : catalogDescriptor Config.params i s = some d) :
    exec i s = exec .buildFrame ((s.setPred (s.predAfter i)).writeDescriptor d) := by
  rw [exec_of_catalogDescriptor hd, State.catalogReady_eq_issue,
    exec_buildFrame_of_inputListed (State.inputListed_writeDescriptor _ d)]

/-- Settles O45: each of the four has a descriptor; without a product code `PRED` stays as it was. -/
theorem catalogExpandsToBuildFrame : Obligations.CatalogExpandsToBuildFrame := fun s =>
  ⟨exec_eq_buildFrame_of_catalogDescriptor (i := .acSwitch) (s := s) rfl,
    exec_eq_buildFrame_of_catalogDescriptor (i := .getPd) (s := s) rfl,
    exec_eq_buildFrame_of_catalogDescriptor (i := .getDcInType) (s := s) rfl,
    exec_eq_buildFrame_of_catalogDescriptor (i := .getDcInCurrent) (s := s) rfl⟩

/-! ### What a catalog operation leaves -/

theorem State.delivered_of_catalogDescriptor {i : Instr} {s : State} {d : Descriptor}
    (hd : catalogDescriptor Config.params i s = some d) :
    s.delivered i = buildFrame Config.params d := by
  cases i with
  | crc8 | crc16 | buildFrame | isDeltaModel => cases hd
  | acSwitch | getPd | getDcInType | getDcInCurrent => cases hd; rfl

theorem exec_catalog_delivers {i : Instr} {s : State} {d : Descriptor}
    (hd : catalogDescriptor Config.params i s = some d) :
    ∃ t, exec i s = .next t ∧ t.pred = s.predAfter i ∧ t.Delivers (buildFrame Config.params d) := by
  have hexec := exec_of_catalogDescriptor hd
  exact ⟨_, hexec, (ends_of_exec hexec).pred,
    State.delivered_of_catalogDescriptor hd ▸ exec_delivers hexec⟩

/-- Bytes that are delivered stand in `OUT[0:WP]` (R92). -/
theorem State.Delivers.outBytes {t : State} {bs : List Byte} (h : t.Delivers (.bytes bs)) :
    t.outBytes = bs := by
  have hresult := h.result
  rw [State.result, h.status] at hresult
  simp only [Result.status] at hresult
  split at hresult
  · cases hresult
  · cases hresult
    rfl

theorem buildFrame_of_le (p : Params) {d : Descriptor} (h : d.payload.length ≤ 65535) :
    buildFrame p d = .bytes (frame p d) := if_neg (Nat.not_lt.2 h)

theorem buildFrame_of_gt (p : Params) {d : Descriptor} (h : 65535 < d.payload.length) :
    buildFrame p d = .error (.payloadTooLarge d.payload.length) := if_pos h

/-- The frame of a descriptor whose payload fits is delivered through `OUT`, `WP` and `STATUS` (R92, R130). -/
theorem State.Delivers.frame_of_le {p : Params} {t : State} {d : Descriptor} (h : t.Delivers (buildFrame p d))
    (hn : d.payload.length ≤ 65535) :
    t.outBytes = frame p d ∧ t.wp = 18 + d.payload.length ∧ t.status = ⟨true, false⟩ ∧
      t.result = some (.bytes t.outBytes) := by
  rw [buildFrame_of_le p hn] at h
  refine ⟨h.outBytes, ?_, h.status, ?_⟩
  · rw [h.wp, Result.wp, length_frame]
  · rw [h.result, h.outBytes]

/-- Settles O41: the delivered frame of the toggle descriptor, whose 7-byte payload fits. -/
theorem acSwitchBuildsTheToggleFrame : Obligations.AcSwitchBuildsTheToggleFrame := by
  refine ⟨decodeOp_encodeOp .acSwitch, fun s => ?_⟩
  obtain ⟨t, ht, -, hdel⟩ := exec_catalog_delivers (i := .acSwitch) (s := s) rfl
  exact ⟨t, ht, hdel.frame_of_le (by simp [acSwitchDescriptor, togglePayload])⟩

/-- Settles O42: the delivered frame of the one descriptor, whose 1-byte payload fits. -/
theorem getPdBuildsItsFrame : Obligations.GetPdBuildsItsFrame := by
  refine ⟨decodeOp_encodeOp .getPd, fun s => ?_⟩
  obtain ⟨t, ht, -, hdel⟩ := exec_catalog_delivers (i := .getPd) (s := s) rfl
  exact ⟨t, ht, hdel.frame_of_le (by simp [getPdDescriptor])⟩

/-! ### The two queries -/

/-- The choice on the predicate as the choice on its two bounds (R89). -/
theorem ite_isDelta {α : Type} (code : Int) (a b : α) :
    (if isDelta code then a else b) = if 12 < code ∧ code < 16 then a else b := by
  simp only [isDelta, decide_eq_true_eq]

/-- Both descriptors of `GET_DC_IN_TYPE` have a payload of one byte (R143). -/
theorem length_dcInType_payload (c : Prop) [Decidable c] :
    (if c then dcInTypeDelta else dcInTypeOther).payload.length = 1 := by
  split <;> rfl

/-- Settles O43: the delivered frame of the descriptor chosen, whose payload has 1 byte either way. -/
theorem getDcInTypeDispatches : Obligations.GetDcInTypeDispatches := by
  refine ⟨decodeOp_encodeOp .getDcInType, fun s => ?_⟩
  obtain ⟨t, ht, hpred, hdel⟩ := exec_catalog_delivers (i := .getDcInType) (s := s) rfl
  rw [ite_isDelta] at hdel
  have hlen := length_dcInType_payload (12 < s.argPcode ∧ s.argPcode < 16)
  obtain ⟨hout, hwp, hstatus, hresult⟩ := hdel.frame_of_le (by omega)
  exact ⟨t, ht, hout, hpred, by omega, hstatus, hresult⟩

/-- Only the destination of the two descriptors of `GET_DC_IN_CURRENT` differs (R144). -/
theorem dcInCurrent_eq (c : Prop) [Decidable c] (p : Params) :
    (if c then dcInCurrentDelta p else dcInCurrentOther p) =
      ⟨if c then p.dccurDstDelta else p.dccurDstOther, p.dccurCmdSet, p.dccurCmdId, p.dccurPayload⟩ := by
  split <;> rfl

/-- Settles O44: `DCCUR_PAYLOAD` is the payload of both descriptors, so its length alone decides between
the frame and the error. -/
theorem getDcInCurrentDispatches : Obligations.GetDcInCurrentDispatches := by
  refine ⟨decodeOp_encodeOp .getDcInCurrent, fun s => ?_⟩
  obtain ⟨t, ht, hpred, hdel⟩ := exec_catalog_delivers (i := .getDcInCurrent) (s := s) rfl
  rw [ite_isDelta, dcInCurrent_eq] at hdel
  refine ⟨t, ht, hpred, fun hn => hdel.frame_of_le hn, fun hgt => ?_⟩
  rw [buildFrame_of_gt Config.params hgt] at hdel
  exact ⟨hdel.status, hdel.result⟩

end Sys2Proof.Machine
end

section
/-! SUPPORT. Reset, and the hazards a caller must respect (spec/70_reset_and_hazards.md): what an idle block
answers to each move, what a busy one refuses, and what of a result a move keeps. -/

namespace Sys2Proof.Machine

/-! ### An idle block -/

theorem microStep_of_idle (p : Params) {s : State} (h : s.busy = false) : microStep p s = .next s := by
  rw [microStep, State.todo_of_idle h]

/-- Settles O6: the step is a micro-step, and an idle block has none to do. -/
theorem idleBlockDoesNothing : Obligations.IdleBlockDoesNothing :=
  fun _ hidle hs => (step_of_no_move hs).trans (microStep_of_idle _ hidle)

theorem step_wait_idle {s : State} {rest : List CallerMove} (hidle : s.busy = false)
    (hs : s.script = .wait :: rest) : step s = .next (s.setScript rest) := by
  rw [step_of_script hs, callerMove, if_neg (by simp [hidle])]

/-! ### Reset -/

theorem step_reset {s : State} {rest : List CallerMove} (hs : s.script = .reset :: rest) :
    step s = .next (State.reset.setScript rest) := step_of_script hs

/-- Settles O7: nothing of the old state but the moves to come is in the next one, the state after reset
(`resetIsIdleWithStatusZero`). -/
theorem resetAbandonsTheOperation : Obligations.ResetAbandonsTheOperation := by
  intro s rest hs
  obtain ⟨hstatus, hidle, hresult⟩ := resetIsIdleWithStatusZero
  exact ⟨_, step_reset hs, hidle, hresult, hstatus, rfl⟩

/-! ### A busy block -/

theorem callOperation_busy {op : Byte} {s : State} (hbusy : s.busy = true) :
    callOperation op s = .refused .busy := if_pos hbusy

theorem issueOperation_busy {op : Byte} {s : State} (hbusy : s.busy = true) :
    issueOperation op s = .refused .busy := if_pos hbusy

/-- Settles O13: a request is refused before its `OP` value is looked at. -/
theorem issueWhileBusyIsRefused : Obligations.IssueWhileBusyIsRefused := by
  intro s op rest hbusy hs
  have hbusy' : (s.setScript rest).busy = true := hbusy
  cases hs with
  | inl hcall => rw [step_of_script hcall, callerMove, callOperation_busy hbusy']
  | inr hissue => rw [step_of_script hissue, callerMove, issueOperation_busy hbusy']

/-- Settles O14: the move is refused before the form of the operands is looked at. -/
theorem operandsAreHeldWhileBusy : Obligations.OperandsAreHeldWhileBusy := by
  intro s o rest hbusy hs
  rw [step_of_script hs, callerMove, if_pos hbusy]

/-! ### The result of an ended operation -/

/-- `t` holds the result that `s` holds, and is as idle or as busy (R187). -/
def State.KeepsResult (s t : State) : Prop :=
  t.result = s.result ∧ t.outBytes = s.outBytes ∧ t.pred = s.pred ∧ t.status = s.status ∧ t.busy = s.busy

theorem State.keepsResult_setScript (s : State) (l : List CallerMove) : s.KeepsResult (s.setScript l) :=
  ⟨rfl, rfl, rfl, rfl, rfl⟩

/-- Operands are written beside the result, in whatever form they are presented. -/
theorem State.keepsResult_present (s : State) (o : Operands) : s.KeepsResult (s.present o) := by
  cases o <;> exact ⟨rfl, rfl, rfl, rfl, rfl⟩

/-- A step of an idle block keeps the result, unless the caller's move is a call, an issue or a reset. -/
theorem step_keepsResult {s t : State} (hidle : s.busy = false) (h : step s = .next t)
    (hcall : ∀ op rest, s.script ≠ .call op :: rest) (hissue : ∀ op rest, s.script ≠ .issue op :: rest)
    (hreset : ∀ rest, s.script ≠ .reset :: rest) : s.KeepsResult t := by
  cases hs : s.script with
  | nil =>
    cases (idleBlockDoesNothing s hidle hs).symm.trans h
    exact s.keepsResult_setScript s.script
  | cons m rest =>
    cases m with
    | present o =>
      cases (step_present hidle hs).symm.trans h
      exact (s.setScript rest).keepsResult_present o
    | call op => exact absurd hs (hcall op rest)
    | issue op => exact absurd hs (hissue op rest)
    | wait =>
      cases (step_wait_idle hidle hs).symm.trans h
      exact s.keepsResult_setScript rest
    | readOut | readPred =>
      rw [step_of_script hs, callerMove] at h
      exact afterRead_eq_next h ▸ s.keepsResult_setScript rest
    | reset => exact absurd hs (hreset rest)

/-- Settles O18: no move left writes `OUT`, `WP`, `PRED`, `STATUS` or the surfaced error, or starts an
operation. -/
theorem resultStaysUntilTheNextIssue : Obligations.ResultStaysUntilTheNextIssue := by
  intro s t hidle h hcall hissue hreset
  obtain ⟨hresult, hout, hpred, hstatus, hbusy⟩ := step_keepsResult hidle h hcall hissue hreset
  exact ⟨hresult, hout, hpred, hstatus, hbusy.trans hidle⟩

/-! ### A caller who keeps to the duties -/

/-- With its input there, a named operation that is called runs to its end, and the call is taken. -/
theorem step_call_completes {op : Byte} {i : Instr} {s : State} {rest : List CallerMove}
    (hidle : s.busy = false) (hs : s.script = .call op :: rest) (hop : decodeOp op = some i)
    (hl : s.InputListed) : ∃ t, step s = .next t ∧ t.script = rest := by
  obtain ⟨t, ht⟩ := exec_completes (i := i) (s := s.setScript rest) fun _ => hl
  obtain ⟨-, hscript⟩ := (ends_of_exec ht).idle
  exact ⟨t, (step_call_named hidle hs hop).trans ht, hscript⟩

/-- Settles O19: a call finds its input by the invariant; no other move of these can stop on an idle
block. -/
theorem dutifulCallerIsNeverStopped : Obligations.DutifulCallerIsNeverStopped := by
  intro s m rest hinv hidle hs hduty
  cases m with
  | present o =>
    exact ⟨_, step_present hidle hs, congrArg State.script (s.present_setScript rest o)⟩
  | call op =>
    obtain ⟨i, hop⟩ := Option.isSome_iff_exists.1 hduty
    exact step_call_completes hidle hs hop hinv.inputListed
  | issue op =>
    obtain ⟨i, hop⟩ := Option.isSome_iff_exists.1 hduty
    exact ⟨_, step_issue_named hidle hs hop, rfl⟩
  | wait => exact ⟨_, step_wait_idle hidle hs, rfl⟩
  | readOut | readPred => cases hduty
  | reset => exact ⟨_, step_reset hs, rfl⟩

end Sys2Proof.Machine
end
